-- ==== Sys2Proof/Word.lean ====
section
/-! DEFINITION. The plain types that commands carry: bytes, leg, window and tag numbers, requests on the
request link (R150) and what a leg target answers (R132, R142). -/

namespace Sys2Proof

/-- One byte of a frame or of data. -/
abbrev Byte := BitVec 8

/-- A leg number, 0 to 3 (00_scope.md, section 5). -/
abbrev LegIx := Fin 4

/-- A window index, 0 to 15 (00_scope.md, section 5). -/
abbrev WinIx := Fin 16

/-- An upstream tag, 0 to 63 (R150). -/
abbrev Tag := Fin 64

/-- A leg sequence number, 0 to 255, wrapping (R137). -/
abbrev SeqNo := BitVec 8

/-- READ or WRITE (R135, R140, R150). -/
inductive ReqKind where
  | read
  | write
  deriving DecidableEq, Repr

/-- A request as it arrives whole on the request link (R150). The length is "the number carried, taken as given". -/
structure Request where
  kind : ReqKind
  tag : Tag
  addr : BitVec 48
  length : Nat
  data : List Byte
  deriving DecidableEq, Repr

/-- An identity answer of a leg target: an error, or serial, capacity in segments and revision (R132). -/
inductive IdentityAnswer where
  | error
  | record (serial : BitVec 32) (capacity : Nat) (revision : Byte)
  deriving DecidableEq, Repr

/-- One beat of a read response on a leg link: the 16 bytes of the aligned unit, or an error (R142, R69). -/
inductive BeatAnswer where
  | ok (data : List Byte)
  | error
  deriving DecidableEq, Repr

end Sys2Proof
end

