-- ==== Sys2Proof/Config.lean ====
section
/-! DEFINITION. The fixed quantities of 00_scope.md, section 5, and the free values the spec leaves open. -/

namespace Sys2Proof.Config

/-- Bytes in a segment: 64 KiB. -/
def segmentBytes : Nat := 65536
/-- Bytes in a chunk. -/
def chunkBytes : Nat := 256
/-- Chunks in a segment (R111). -/
def chunksPerSegment : Nat := 256
/-- Largest window size in segments (R1). -/
def maxWindowSize : Nat := 16777216
/-- Largest capacity a leg may report, in segments (R132). -/
def maxCapacity : Nat := 268435456
/-- End of the upstream address space: 2^48 (R8). -/
def addressEnd : Nat := 281474976710656
/-- Members of a window (R1). -/
def maxMembers : Nat := 4
/-- Write tracker entries (R44). -/
def writeTrackerSize : Nat := 32
/-- Hold queue places (R55). -/
def holdQueueSize : Nat := 8
/-- Read tracker entries (R66). -/
def readTrackerSize : Nat := 24
/-- Direct queue places of a leg (R135). -/
def directSize : Nat := 16
/-- Lag queue places of a leg (R135). -/
def lagSize : Nat := 64
/-- Copy channel places of a leg (R135). -/
def copySize : Nat := 4
/-- In-flight entries of a leg (R140). -/
def inflightSize : Nat := 16
/-- Chunks in process at once (R111). -/
def chunksInProcess : Nat := 4
/-- Stale segment store entries (R87). -/
def storeSize : Nat := 4096
/-- Jobs in the job queue (R99). -/
def jobQueueSize : Nat := 8
/-- The pass that is closed (R99, R117). -/
def closedPass : Nat := 4
/-- Consecutive read failures that fault a leg (R145). -/
def readFailureLimit : Nat := 4
/-- Timeout setting after cold reset, in microseconds (R127). -/
def defaultTimeout : Nat := 250
/-- Largest timeout setting (R147). -/
def maxTimeout : Nat := 4095
/-- Event queue records (R172). -/
def eventQueueSize : Nat := 32
/-- Largest drop count (R167). -/
def maxDrop : Nat := 255
/-- Largest value of a health counter (R173). -/
def maxCounter : Nat := 65535
/-- Largest argument length of a request frame (R178). -/
def maxArguments : Nat := 48
/-- Segment indices STALE_LIST returns at most (R97). -/
def staleListMax : Nat := 16

/-- Free value (R122, R60; log entry 6): when a chunk write fails, whether the failure report is taken before the leg's
departure. Applied to the state's counter of free choices; nothing fixes a value of it. -/
opaque reportFirst : Nat → Bool

/-- Free value (R161, R65, R86; log entry 5): which unit's FAULT item joins the answer queue next in a datapath reset, the
write replication unit's (true) or the read steering unit's. Applied to the state's counter of free choices. -/
opaque writeItemFirst : Nat → Bool

end Sys2Proof.Config
end

