-- ==== Sys2Proof/Syntax.lean ====
section
/-! DEFINITION. The commands of the block: one constructor per row of spec/opcode_table.json. -/

namespace Sys2Proof

/-- The commands the block takes. A management command is one complete, well-checked request frame (R178): its sequence
byte and its argument bytes, raw, so that every argument condition of R181 is the model's to decide. -/
inductive Instr where
  /-- IDENT (R183) -/
  | ident (seq : Byte) (args : List Byte)
  /-- STATUS_GET (R184) -/
  | statusGet (seq : Byte) (args : List Byte)
  /-- DATAPATH_RESET (R186) -/
  | datapathReset (seq : Byte) (args : List Byte)
  /-- WINDOW_SET (R8) -/
  | windowSet (seq : Byte) (args : List Byte)
  /-- WINDOW_GET (R10) -/
  | windowGet (seq : Byte) (args : List Byte)
  /-- WINDOW_ENABLE (R11) -/
  | windowEnable (seq : Byte) (args : List Byte)
  /-- WINDOW_DISABLE (R15) -/
  | windowDisable (seq : Byte) (args : List Byte)
  /-- WINDOW_RESEED (R19) -/
  | windowReseed (seq : Byte) (args : List Byte)
  /-- PASS_SET (R7) -/
  | passSet (seq : Byte) (args : List Byte)
  /-- MEMBER_ADD (R25) -/
  | memberAdd (seq : Byte) (args : List Byte)
  /-- MEMBER_REMOVE (R27) -/
  | memberRemove (seq : Byte) (args : List Byte)
  /-- MEMBER_GET (R43) -/
  | memberGet (seq : Byte) (args : List Byte)
  /-- LEG_ENABLE (R129) -/
  | legEnable (seq : Byte) (args : List Byte)
  /-- LEG_DISABLE (R130) -/
  | legDisable (seq : Byte) (args : List Byte)
  /-- LEG_GET (R149) -/
  | legGet (seq : Byte) (args : List Byte)
  /-- LEG_SET_TIMEOUT (R147) -/
  | legSetTimeout (seq : Byte) (args : List Byte)
  /-- RESYNC_QUEUE (R102) -/
  | resyncQueue (seq : Byte) (args : List Byte)
  /-- RESYNC_CANCEL (R103) -/
  | resyncCancel (seq : Byte) (args : List Byte)
  /-- RESYNC_GET (R104) -/
  | resyncGet (seq : Byte) (args : List Byte)
  /-- STALE_COUNT (R96) -/
  | staleCount (seq : Byte) (args : List Byte)
  /-- STALE_LIST (R97) -/
  | staleList (seq : Byte) (args : List Byte)
  /-- EVENT_POP (R169) -/
  | eventPop (seq : Byte) (args : List Byte)
  /-- EVENT_CONFIG (R170) -/
  | eventConfig (seq : Byte) (args : List Byte)
  /-- HEALTH_READ (R174) -/
  | healthRead (seq : Byte) (args : List Byte)
  /-- UNKNOWN_COMMAND: a complete, well-checked frame whose code names no command (R181) -/
  | unknownCommand (code seq : Byte) (args : List Byte)
  /-- FRAME_BAD_CHECK: a complete frame whose bytes do not exclusive-or to zero (R179) -/
  | frameBadCheck (code seq : Byte) (args : List Byte) (check : Byte)
  /-- CHIP_SELECT_FALL: start of an SPI assertion; `early` when it comes sooner than the minimum deselect time after the last rise (R180, R193) -/
  | chipSelectFall (early : Bool)
  /-- CHIP_SELECT_RISE: end of an SPI assertion; `bytes` are the bytes received in it that no frame row has brought (R178, R179, R180) -/
  | chipSelectRise (bytes : List Byte)
  /-- RESET_ASSERT: assertion of the RESET line for at least 10 microseconds (R193) -/
  | resetAssert
  /-- RESET_RELEASE: release of the RESET line (R163) -/
  | resetRelease
  /-- RESET_GUARD_END: end of the 1 ms after the release (R193) -/
  | resetGuardEnd
  /-- REQUEST: a request delivered whole on the request link (R150, R153) -/
  | request (r : Request)
  /-- HEAD_RETRY: the stalled head is presented again (R157) -/
  | headRetry
  /-- RELEASE_RESUME: a paused release from the hold queue resumes (R56) -/
  | releaseResume
  /-- READ_RECONSIDER: the WAITING reads are steered again (R76) -/
  | readReconsider
  /-- ANSWER_ITEM_TAKEN: the requester takes the head answer item (R158) -/
  | answerItemTaken
  /-- READY_RISE: the READY line of a leg rises (R128) -/
  | readyRise (leg : LegIx)
  /-- READY_FALL: the READY line of a leg falls (R128) -/
  | readyFall (leg : LegIx)
  /-- IDENTITY_ANSWER: an identity answer taken whole (R132, R133) -/
  | identityAnswer (leg : LegIx) (answer : IdentityAnswer)
  /-- IDENTITY_TIMEOUT: the identity timer of a leg expires (R133) -/
  | identityTimeout (leg : LegIx)
  /-- LEG_SEND: a leg port sends one request (R137) -/
  | legSend (leg : LegIx)
  /-- WRITE_RESPONSE: a write response taken against its in-flight entry (R141, R144) -/
  | writeResponse (leg : LegIx) (number : SeqNo) (ok : Bool)
  /-- READ_BEAT: one beat of a read response; `first` when it is the first beat of its response (R142, R144) -/
  | readBeat (leg : LegIx) (number : SeqNo) (first : Bool) (beat : BeatAnswer)
  /-- ENTRY_TIMER_EXPIRY: the timer of an in-flight entry runs out (R143) -/
  | entryTimerExpiry (leg : LegIx) (number : SeqNo)
  /-- JOB_START_ATTEMPT: the engine tries the head job (R105) -/
  | jobStartAttempt
  /-- SOURCE_RETAKE: an engine in SOURCE_WAIT takes the lead again (R108) -/
  | sourceRetake
  /-- CHUNK_READ_PLACE: the engine places chunk reads (R111) -/
  | chunkReadPlace
  /-- DRAIN_COMPLETE: a DRAINING window with no outstanding work becomes DISABLED (R17) -/
  | drainComplete (window : WinIx)
  /-- RESET_DONE: the link is clear and the datapath reset ends (R187) -/
  | resetDone
  deriving DecidableEq, Repr

end Sys2Proof
end

