-- ==== Sys2Proof/WellFormed.lean ====
section
/-! DEFINITION. Which commands can arrive: the checks on a command's own operands. Everything else (argument lengths and
values of a frame, malformed requests, answers that match nothing) is the meaning's business. -/

namespace Sys2Proof

/-- The command codes of R182. -/
def commandCodes : List Byte :=
  [0x01, 0x02, 0x03, 0x10, 0x11, 0x12, 0x13, 0x14, 0x15, 0x20, 0x21, 0x22, 0x30, 0x31, 0x32, 0x33,
   0x40, 0x41, 0x42, 0x50, 0x51, 0x60, 0x61, 0x62]

/-- A frame can carry at most 48 argument bytes (R178). -/
def argsFit (args : List Byte) : Bool := args.length ≤ Config.maxArguments

/-- The exclusive-or of a list of bytes (R179). -/
def xorAll (bs : List Byte) : Byte := bs.foldl (· ^^^ ·) 0

/-- A READ carries no data (R150: the data are "for a WRITE"). -/
def Request.wf (r : Request) : Bool :=
  match r.kind with
  | .read => r.data.isEmpty
  | .write => true

/-- A beat without error carries the 16 bytes of its aligned unit (R69). -/
def BeatAnswer.wf : BeatAnswer → Bool
  | .ok d => d.length == 16
  | .error => true

/-- The check on a command's operands. -/
def Instr.wf : Instr → Bool
  | .ident _ a => argsFit a
  | .statusGet _ a => argsFit a
  | .datapathReset _ a => argsFit a
  | .windowSet _ a => argsFit a
  | .windowGet _ a => argsFit a
  | .windowEnable _ a => argsFit a
  | .windowDisable _ a => argsFit a
  | .windowReseed _ a => argsFit a
  | .passSet _ a => argsFit a
  | .memberAdd _ a => argsFit a
  | .memberRemove _ a => argsFit a
  | .memberGet _ a => argsFit a
  | .legEnable _ a => argsFit a
  | .legDisable _ a => argsFit a
  | .legGet _ a => argsFit a
  | .legSetTimeout _ a => argsFit a
  | .resyncQueue _ a => argsFit a
  | .resyncCancel _ a => argsFit a
  | .resyncGet _ a => argsFit a
  | .staleCount _ a => argsFit a
  | .staleList _ a => argsFit a
  | .eventPop _ a => argsFit a
  | .eventConfig _ a => argsFit a
  | .healthRead _ a => argsFit a
  | .unknownCommand code _ a => argsFit a && code != 0xFF && !commandCodes.contains code
  | .frameBadCheck code seq a check =>
    argsFit a && code != 0xFF && xorAll (code :: seq :: BitVec.ofNat 8 a.length :: a ++ [check]) != 0
  | .chipSelectFall _ => true
  | .chipSelectRise _ => true
  | .resetAssert => true
  | .resetRelease => true
  | .resetGuardEnd => true
  | .request r => r.wf
  | .headRetry => true
  | .releaseResume => true
  | .readReconsider => true
  | .answerItemTaken => true
  | .readyRise _ => true
  | .readyFall _ => true
  | .identityAnswer _ _ => true
  | .identityTimeout _ => true
  | .legSend _ => true
  | .writeResponse _ _ _ => true
  | .readBeat _ _ _ b => b.wf
  | .entryTimerExpiry _ _ => true
  | .jobStartAttempt => true
  | .sourceRetake => true
  | .chunkReadPlace => true
  | .drainComplete _ => true
  | .resetDone => true

end Sys2Proof
end

