-- ==== Sys2Proof/Decode.lean ====
section
/-! DEFINITION. The command that a word spells by the bits of spec/opcode_table.json. No row of that table gives bits
("fields" is empty in all 49), so no word spells a command. The byte layouts of the management frames are the port's
business (Machine/Port.lean). -/

namespace Sys2Proof

/-- The command that a word of `nbits` bits spells by the table: none, since no row gives bits. -/
def decodeTableWord (_nbits _w : Nat) : Option Instr := none

end Sys2Proof
end

