-- ==== Sys2Proof/Machine/State.lean ====
section
/-! DEFINITION. The state of the E2404, as plain data, and its value right after a cold reset. -/

namespace Sys2Proof.Machine

/-! ## Stops -/

/-- Faults that stop the machine: none. Every FAULT of the spec is an answer or a leg state, and the block goes on (log
entry 33). No constructor, so nobody raises one; safe. -/
inductive Fault where
  deriving DecidableEq, Repr

/-- Why a command is refused by the MODEL. -/
inductive Refusal where
  /-- Raised by an arm of `exec` whose command has no meaning yet; safe. -/
  | notModelled (mnemonic : String)
  deriving DecidableEq, Repr

/-! ## Window table and member slots -/

/-- Window states (R1). -/
inductive WindowState where
  | disabled
  | enabled
  | draining
  deriving DecidableEq, Repr

/-- Write policies (R1). -/
inductive WritePolicy where
  | sync
  | lagged
  deriving DecidableEq, Repr

/-- Read policies (R1). -/
inductive ReadPolicy where
  | ordered
  | rotate
  | shortest
  deriving DecidableEq, Repr

/-- Lag-overflow policies (R1). -/
inductive LagPolicy where
  | stall
  | demote
  deriving DecidableEq, Repr

/-- Member slot states (R23). -/
inductive SlotState where
  | current
  | stale
  | rebuilding
  deriving DecidableEq, Repr

/-- Window health (R20): PROTECTED (`prot`), EXPOSED, LOST. -/
inductive Health where
  | prot
  | exposed
  | lost
  deriving DecidableEq, Repr

/-- One entry of a member list (R1) with its slot record (R23). The stale count is derived from the store. -/
structure Member where
  leg : LegIx
  base : Nat
  state : Option SlotState
  whole : Bool
  serial : Option (BitVec 32)
  deriving DecidableEq, Repr

/-- A window record (R1). Health and lead are derived (Machine/Flags.lean). -/
structure Window where
  state : WindowState
  base : Nat
  size : Nat
  writePolicy : WritePolicy
  readPolicy : ReadPolicy
  lagPolicy : LagPolicy
  autoRebuild : Bool
  members : List Member
  rotate : Nat
  deriving DecidableEq, Repr

/-! ## Write tracker and read tracker -/

/-- Whether a tracked write waits in the hold queue (R44). -/
inductive Held where
  | no
  | held
  | released
  deriving DecidableEq, Repr

/-- A write tracker entry (R44). `ref` stands for the position by which other blocks refer to it (log entry 10);
`window` is absent for PASS; the owed and acked sets are lists without repeats. -/
structure WriteEntry where
  ref : Nat
  tag : Tag
  window : Option WinIx
  addr : Nat
  length : Nat
  segment : Option Nat
  legAddrs : List (LegIx × Nat)
  data : List Byte
  policy : Option WritePolicy
  owed : List LegIx
  acked : List LegIx
  answered : Bool
  held : Held
  deriving DecidableEq, Repr

/-- A read tracker entry (R66). It is ISSUED exactly when `current` is present. `failedOn` is the leg that a placement
ending the present wait credits with a failover (R82). -/
structure ReadEntry where
  ref : Nat
  tag : Tag
  window : Option WinIx
  addr : Nat
  length : Nat
  segment : Option Nat
  legAddrs : List (LegIx × Nat)
  beatsTotal : Nat
  delivered : Nat
  tried : List LegIx
  current : Option LegIx
  issueBeat : Option Nat
  failedOn : Option LegIx
  deriving DecidableEq, Repr

/-! ## Stale segment store -/

/-- A triple of the stale segment store (R87). -/
structure StaleEntry where
  window : WinIx
  leg : LegIx
  segment : Nat
  deriving DecidableEq, Repr

/-! ## Rebuild engine -/

/-- Job modes (R99). -/
inductive JobMode where
  | full
  | stale
  | auto
  deriving DecidableEq, Repr

/-- The phase of a chunk in process: its read is placed and not completed, or its write is placed or waiting to be placed
(R99, R113). -/
inductive ChunkPhase where
  | reading
  | writing
  deriving DecidableEq, Repr

/-- A chunk in process (R99 note 1), with the data its read has returned so far. -/
structure Chunk where
  index : Nat
  phase : ChunkPhase
  data : List Byte
  deriving DecidableEq, Repr

/-- A job record (R99). `running` is the state RUNNING; reads and writes outstanding are derived from `chunks`. -/
structure Job where
  number : BitVec 8
  window : WinIx
  target : LegIx
  mode : JobMode
  running : Bool
  source : Option LegIx
  segment : Option Nat
  pass : Option Nat
  overtaken : Bool
  nextChunk : Nat
  chunks : List Chunk
  chunksWritten : Nat
  segmentsDone : Nat
  segmentsTotal : Option Nat
  deriving DecidableEq, Repr

/-! ## Leg ports -/

/-- Leg states (R127). -/
inductive LegState where
  | off
  | down
  | identifying
  | up
  | faulted
  deriving DecidableEq, Repr

/-- An identity record (R127). -/
structure Identity where
  serial : BitVec 32
  capacity : Nat
  revision : Byte
  deriving DecidableEq, Repr

/-- The owner of a leg request (R135): a write tracker entry (with its window, absent for PASS), a read tracker entry, or
a chunk of the job with a number. -/
inductive Owner where
  | write (ref : Nat) (window : Option WinIx)
  | read (ref : Nat)
  | chunk (job : BitVec 8) (index : Nat)
  deriving DecidableEq, Repr

/-- A request waiting in a queue of a leg port (R135). -/
structure LegRequest where
  kind : ReqKind
  addr : Nat
  length : Nat
  data : List Byte
  owner : Owner
  age : Nat
  deriving DecidableEq, Repr

/-- Conditions of an in-flight entry (R140). -/
inductive Condition where
  | live
  | orphaned
  | closing
  | expired
  deriving DecidableEq, Repr

/-- An in-flight table entry (R140), with its length (R137 step 3), its own timeout and whether its response has been counted
(R144). -/
structure Flight where
  number : SeqNo
  kind : ReqKind
  length : Nat
  beatsExpected : Option Nat
  beatsTaken : Nat
  owner : Option Owner
  timerRunning : Bool
  timeout : Nat
  condition : Condition
  counted : Bool
  deriving DecidableEq, Repr

/-- What a leg port puts on its leg link: a request with its sequence number (R137) or the identity request (R132). -/
inductive LinkItem where
  | request (number : SeqNo) (r : LegRequest)
  | identityRequest
  deriving DecidableEq, Repr

/-- A leg port's record (R127). -/
structure LegPort where
  state : LegState
  ready : Bool
  identity : Option Identity
  timeout : Nat
  direct : List LegRequest
  lag : List LegRequest
  copy : List LegRequest
  inflight : List Flight
  nextNumber : SeqNo
  arbiter : Fin 8
  failures : Nat
  identityTimer : Option Nat
  nextAge : Nat
  spent : List SeqNo
  sent : Option LinkItem
  deriving DecidableEq, Repr

/-! ## Request link port -/

/-- Acceptance states (R152). -/
inductive AcceptState where
  | opened
  | stalled
  | resetting
  deriving DecidableEq, Repr

/-- Stall causes (R152). -/
inductive StallCause where
  | none
  | tagBusy
  | trackerFull
  | readTrackerFull
  | holdFull
  | directFull
  | lagFull
  | resetting
  deriving DecidableEq, Repr

/-- OKAY or FAULT (R151). -/
inductive Answer where
  | okay
  | fault
  deriving DecidableEq, Repr

/-- Answer items (R151). -/
inductive AnswerItem where
  | write (tag : Tag) (status : Answer)
  | beat (tag : Tag) (number : Nat) (status : Answer) (data : List Byte)
  | reject (tag : Tag) (kind : ReqKind)
  deriving DecidableEq, Repr

/-- What is still due to leave under a tag in use (R152): the write answer, the reject, or a number of beats. -/
inductive Due where
  | writeAnswer
  | reject
  | beats (left : Nat)
  deriving DecidableEq, Repr

/-- A tag in use with its record (R152). -/
structure TagRecord where
  tag : Tag
  due : Due
  deriving DecidableEq, Repr

/-- The request link port's record (R152), and the requests that wait on the link, on the requester's side, behind the head
(R150; log entry 7). -/
structure Link where
  accept : AcceptState
  head : Option Request
  cause : StallCause
  tags : List TagRecord
  answers : List AnswerItem
  waiting : List Request
  deriving DecidableEq, Repr

/-! ## Event and health unit -/

/-- Causes of LEG_CHANGE, in the order of R164. -/
inductive LegCause where
  | enabled
  | disabled
  | readyRise
  | readyFall
  | identified
  | identityError
  | identityTimeout
  | writeError
  | writeTimeout
  | readFailures
  deriving DecidableEq, Repr

/-- Causes of MEMBER_CHANGE, in the order of R164; SERIAL_CHANGED is a record of its own. -/
inductive MemberCause where
  | added
  | removed
  | seed
  | reseed
  | cleanRejoin
  | rebuilt
  | legLeft
  | lagOverflow
  | datapathReset
  | rebuildAborted
  deriving DecidableEq, Repr

/-- Causes of JOB_ENDED, in the order of R164. -/
inductive JobCause where
  | targetDown
  | state
  | noSource
  | capacity
  | cancelled
  | removed
  | draining
  | lagOverflow
  | targetError
  | datapathReset
  deriving DecidableEq, Repr

/-- Event kinds (R164). -/
inductive EventKind where
  | legChange
  | memberChange
  | windowHealth
  | windowDisabled
  | jobStarted
  | jobDone
  | jobEnded
  | staleOverflow
  | capacityMismatch
  | autoQueueFull
  | resetDone
  | overrun
  deriving DecidableEq, Repr

/-- The content of an event record: for each kind the fields R164 says are present. `serialChanged` is a MEMBER_CHANGE with
cause SERIAL_CHANGED, whose detail is the serial. -/
inductive EventRec where
  | legChange (leg : LegIx) (cause : LegCause) (old new : LegState)
  | memberChange (window : WinIx) (leg : LegIx) (cause : MemberCause) (state : Option SlotState)
  | serialChanged (window : WinIx) (leg : LegIx) (serial : BitVec 32)
  | windowHealth (window : WinIx) (old : Option Health) (new : Health)
  | windowDisabled (window : WinIx)
  | jobStarted (window : WinIx) (leg : LegIx) (mode : JobMode) (number : BitVec 8)
  | jobDone (window : WinIx) (leg : LegIx) (number : BitVec 8)
  | jobEnded (window : WinIx) (leg : LegIx) (cause : JobCause) (number : BitVec 8)
  | staleOverflow (window : WinIx) (leg : LegIx) (segment : Nat)
  | capacityMismatch (window : WinIx) (leg : LegIx) (capacity : Nat)
  | autoQueueFull (window : WinIx) (leg : LegIx)
  | resetDone
  | overrun (dropped : Nat)
  deriving DecidableEq, Repr

/-- A stored record with its sequence number (R166). -/
structure StoredEvent where
  seq : BitVec 16
  record : EventRec
  deriving DecidableEq, Repr

/-- The event part of the event and health unit (R172). Bit k of the mask masks kind code k (R192). -/
structure EventUnit where
  queue : List StoredEvent
  nextSeq : BitVec 16
  drop : Nat
  alertEnable : Bool
  mask : BitVec 16
  deriving DecidableEq, Repr

/-- The six health counters of a leg, in the order of R173. -/
structure Counters where
  readFailures : Nat
  writeFailures : Nat
  timeouts : Nat
  late : Nat
  stray : Nat
  failovers : Nat
  deriving DecidableEq, Repr

/-! ## Management port -/

/-- Statuses (R181). -/
inductive Status where
  | done
  | accepted
  | busy
  | state
  | arg
  | overlap
  | seed
  | capacity
  | last
  | full
  | duplicate
  | none
  | empty
  | unknown
  | frame
  deriving DecidableEq, Repr

/-- Frame conditions (R177). -/
inductive FrameCondition where
  | none
  | receiving
  | fetchOnly
  | overlong
  | complete
  deriving DecidableEq, Repr

/-- A response frame, less its length and check byte, which are computed (R189). -/
structure Response where
  seq : Byte
  status : Status
  results : List Byte
  deriving DecidableEq, Repr

/-- Progress of a datapath reset (R177). -/
inductive ResetProgress where
  | none
  | answering
  | clearing
  deriving DecidableEq, Repr

/-- The management port's record (R177), and what R180 and R193 imply: whether an assertion is in progress, the response it
shifts out, its byte times, the response pending before the last frame's, whether the last rise installed one, a response
that becomes pending when an early assertion ends, and the guard of 1 ms after the release of RESET (log entries 8, 11). -/
structure Port where
  buffer : List Byte
  condition : FrameCondition
  pendingResponse : Option Response
  newResponse : Option Response
  progress : ResetProgress
  selected : Bool
  shiftOut : Option Response
  byteTimes : Nat
  prior : Option Response
  installed : Bool
  late : Option Response
  guard : Bool
  deriving DecidableEq, Repr

/-! ## The whole device -/

/-- What a step has changed and other blocks have still to be told of within it (log entry 3): the read steering unit, the rebuild
engine, the drain test and the end of a datapath reset (`work`); the request link port, which presents a STALLED head again (R157)
(`head`); the write replication unit, which resumes a paused release (R56) (`release`). -/
structure Notice where
  work : Bool
  head : Bool
  release : Bool
  deriving DecidableEq, Repr

/-- Nothing is due. -/
def Notice.quiet : Notice := { work := false, head := false, release := false }

/-- Every block is due to be told. -/
def Notice.full : Notice := { work := true, head := true, release := true }

/-- The state of the device, and the queue of commands waiting. -/
structure State where
  windows : Vector Window 16
  passLeg : Option LegIx
  writes : List WriteEntry
  hold : List Nat
  reads : List ReadEntry
  store : List StaleEntry
  jobs : List Job
  nextJob : BitVec 8
  legs : Vector LegPort 4
  link : Link
  events : EventUnit
  health : Vector Counters 4
  port : Port
  resetAsserted : Bool
  nextRef : Nat
  choices : Nat
  notice : Notice
  pending : List Instr
  deriving DecidableEq, Repr

/-! ## Cold reset -/

/-- A window record after cold reset (R2). -/
def Window.reset : Window :=
  { state := .disabled, base := 0, size := 0, writePolicy := .sync, readPolicy := .ordered,
    lagPolicy := .stall, autoRebuild := false, members := [], rotate := 0 }

/-- A leg port after cold reset (R127). The READY level is an input's: low here (log entry 9). -/
def LegPort.reset : LegPort :=
  { state := .off, ready := false, identity := none, timeout := Config.defaultTimeout,
    direct := [], lag := [], copy := [], inflight := [], nextNumber := 0, arbiter := 0,
    failures := 0, identityTimer := none, nextAge := 0, spent := [], sent := none }

/-- The request link port after cold reset (R152). -/
def Link.reset : Link :=
  { accept := .opened, head := none, cause := .none, tags := [], answers := [], waiting := [] }

/-- The event part after cold reset (R172). -/
def EventUnit.reset : EventUnit :=
  { queue := [], nextSeq := 0, drop := 0, alertEnable := false, mask := 0 }

/-- Health counters after cold reset (R175). -/
def Counters.zero : Counters :=
  { readFailures := 0, writeFailures := 0, timeouts := 0, late := 0, stray := 0, failovers := 0 }

/-- The management port after cold reset (R177); the guard of R193 is running. -/
def Port.reset : Port :=
  { buffer := [], condition := .none, pendingResponse := none, newResponse := none, progress := .none,
    selected := false, shiftOut := none, byteTimes := 0, prior := none, installed := false,
    late := none, guard := true }

/-- The device right after the release of RESET: every block at its cold-reset value (R2, R45, R67, R88, R100, R127, R152,
R172, R175, R177), the guard of R193 running, no command waiting. -/
def State.reset : State :=
  { windows := Vector.replicate 16 Window.reset
    passLeg := none
    writes := []
    hold := []
    reads := []
    store := []
    jobs := []
    nextJob := 0
    legs := Vector.replicate 4 LegPort.reset
    link := Link.reset
    events := EventUnit.reset
    health := Vector.replicate 4 Counters.zero
    port := Port.reset
    resetAsserted := false
    nextRef := 0
    choices := 0
    notice := Notice.quiet
    pending := [] }

end Sys2Proof.Machine
end

