-- ==== Sys2Proof/Machine/Ops.lean ====
section
/-! DEFINITION. The named operations on the state that every block uses: access to windows, slots, trackers and legs; byte
ranges; event records; health counters; the stale segment store; the queues and tables of a leg port; answer items and
tags. -/

namespace Sys2Proof.Machine

/-- All windows in ascending index, the order in which the device visits them (00_scope.md, section 6). -/
def allWindows : List WinIx := [0, 1, 2, 3, 4, 5, 6, 7, 8, 9, 10, 11, 12, 13, 14, 15]

/-- All legs in ascending number. -/
def allLegs : List LegIx := [0, 1, 2, 3]

/-! ## Sets of legs, byte ranges -/

/-- A set of legs with one more leg. -/
def legInsert (l : LegIx) (ls : List LegIx) : List LegIx := if ls.contains l then ls else ls ++ [l]

/-- A set of legs without a leg. -/
def legErase (l : LegIx) (ls : List LegIx) : List LegIx := ls.filter (· != l)

/-- Two byte ranges share at least one byte (R11, R71, R139). -/
def overlaps (a n b m : Nat) : Bool := decide (0 < n) && decide (0 < m) && decide (a < b + m) && decide (b < a + n)

/-! ## Access to the state -/

/-- Window record `w`. -/
def State.win (s : State) (w : WinIx) : Window := s.windows[w]

/-- Replaces window record `w`. -/
def State.setWin (s : State) (w : WinIx) (x : Window) : State := { s with windows := s.windows.set w x }

/-- Leg port `l`. -/
def State.leg (s : State) (l : LegIx) : LegPort := s.legs[l]

/-- Replaces leg port `l`. -/
def State.setLeg (s : State) (l : LegIx) (x : LegPort) : State := { s with legs := s.legs.set l x }

/-- Health counters of leg `l`. -/
def State.counters (s : State) (l : LegIx) : Counters := s.health[l]

/-- Replaces the health counters of leg `l`. -/
def State.setCounters (s : State) (l : LegIx) (c : Counters) : State := { s with health := s.health.set l c }

/-- A change is noted that every block is told of: an event of R157 that R56 names too (a queue that loses a request, a retired write,
a slot or leg state; log entry 3). -/
def State.raise (s : State) : State := { s with notice := Notice.full }

/-- A change is noted that brings a retry of the head but no resumption of a release: an event of R157 that R56 does not name. -/
def State.raiseHead (s : State) : State := { s with notice := { s.notice with work := true, head := true } }

/-- A change is noted that is no event of R157. -/
def State.raiseWork (s : State) : State := { s with notice := { s.notice with work := true } }

/-- Changes window record `w`. -/
def modWin (w : WinIx) (f : Window → Window) (s : State) : State := s.setWin w (f (s.win w))

/-- Changes leg port `l`. -/
def modLeg (l : LegIx) (f : LegPort → LegPort) (s : State) : State := s.setLeg l (f (s.leg l))

/-- A datapath reset is in progress (R188). -/
def inReset (s : State) : Bool := s.port.progress != .none

/-! ## Events (R165 to R167) -/

/-- The kind of a record (R164). -/
def EventRec.kind : EventRec → EventKind
  | .legChange _ _ _ _ => .legChange
  | .memberChange _ _ _ _ => .memberChange
  | .serialChanged _ _ _ => .memberChange
  | .windowHealth _ _ _ => .windowHealth
  | .windowDisabled _ => .windowDisabled
  | .jobStarted _ _ _ _ => .jobStarted
  | .jobDone _ _ _ => .jobDone
  | .jobEnded _ _ _ _ => .jobEnded
  | .staleOverflow _ _ _ => .staleOverflow
  | .capacityMismatch _ _ _ => .capacityMismatch
  | .autoQueueFull _ _ => .autoQueueFull
  | .resetDone => .resetDone
  | .overrun _ => .overrun

/-- The code of a kind (R192). -/
def EventKind.code : EventKind → Nat
  | .legChange => 1
  | .memberChange => 2
  | .windowHealth => 3
  | .windowDisabled => 4
  | .jobStarted => 5
  | .jobDone => 6
  | .jobEnded => 7
  | .staleOverflow => 8
  | .capacityMismatch => 9
  | .autoQueueFull => 10
  | .resetDone => 11
  | .overrun => 12

/-- Stores a record at the tail with the next sequence number (R166). -/
def EventUnit.push (e : EventUnit) (r : EventRec) : EventUnit :=
  { e with queue := e.queue ++ [{ seq := e.nextSeq, record := r }], nextSeq := e.nextSeq + 1 }

/-- The event and health unit takes one offered record: masked, dropped or stored (R165, R167). -/
def EventUnit.offer (e : EventUnit) (r : EventRec) : EventUnit :=
  if e.mask.getLsbD r.kind.code then e
  else if e.queue.length < Config.eventQueueSize then e.push r
  else { e with drop := min Config.maxDrop (e.drop + 1) }

/-- A block offers a record to the event queue. -/
def post (r : EventRec) (s : State) : State := { s with events := s.events.offer r }

/-! ## Health counters (R173) -/

/-- The six counters of a leg. -/
inductive Counter where
  | readFailures
  | writeFailures
  | timeouts
  | late
  | stray
  | failovers
  deriving DecidableEq, Repr

/-- One more, saturating at 65,535 (R173). -/
def satSucc (n : Nat) : Nat := min Config.maxCounter (n + 1)

/-- Raises one counter by one. -/
def Counters.bump (k : Counter) (c : Counters) : Counters :=
  match k with
  | .readFailures => { c with readFailures := satSucc c.readFailures }
  | .writeFailures => { c with writeFailures := satSucc c.writeFailures }
  | .timeouts => { c with timeouts := satSucc c.timeouts }
  | .late => { c with late := satSucc c.late }
  | .stray => { c with stray := satSucc c.stray }
  | .failovers => { c with failovers := satSucc c.failovers }

/-- A health count of leg `l` rises by one (R173). -/
def count (l : LegIx) (k : Counter) (s : State) : State := s.setCounters l ((s.counters l).bump k)

/-! ## Member slots -/

/-- The member of window `w` on leg `l`, if the leg is in the list. -/
def memberOf (s : State) (w : WinIx) (l : LegIx) : Option Member := (s.win w).members.find? (fun m => m.leg == l)

/-- The slot state of (w, l); absent when the window is DISABLED or the leg is not in the list. -/
def slotState (s : State) (w : WinIx) (l : LegIx) : Option SlotState := (memberOf s w l).bind (·.state)

/-- Slot (w, l) is CURRENT. -/
def isCurrent (s : State) (w : WinIx) (l : LegIx) : Bool := slotState s w l == some .current

/-- Changes the slot of (w, l). -/
def modMember (w : WinIx) (l : LegIx) (f : Member → Member) (s : State) : State :=
  modWin w (fun x => { x with members := x.members.map fun m => if m.leg == l then f m else m }) s

/-! ## Stale segment store (R87, R89, R90, R93, R94) -/

/-- The place of a triple in the store's order. -/
def StaleEntry.key (e : StaleEntry) : Nat × Nat × Nat := (e.window.val, e.leg.val, e.segment)

/-- The order in which the store is kept: by window, leg, segment. -/
def StaleEntry.before (a b : StaleEntry) : Bool :=
  decide (a.window.val < b.window.val) ||
    (a.window == b.window && (decide (a.leg.val < b.leg.val) || (a.leg == b.leg && decide (a.segment < b.segment))))

/-- Inserts a triple at its place; a triple already present changes nothing. -/
def storeInsert (e : StaleEntry) : List StaleEntry → List StaleEntry
  | [] => [e]
  | x :: xs => if e.before x then e :: x :: xs else if e == x then x :: xs else x :: storeInsert e xs

/-- The canonical form of the store: strictly ascending (so no triple twice), at most 4,096 entries. -/
abbrev Store.wf (st : List StaleEntry) : Prop :=
  st.Pairwise (fun a b => a.before b = true) ∧ st.length ≤ Config.storeSize

/-- The stale list of a slot, in ascending segment order (R87). -/
def staleList (s : State) (w : WinIx) (l : LegIx) : List Nat :=
  (s.store.filter fun e => e.window == w && e.leg == l).map (·.segment)

/-- Frees a slot's whole list (R94). -/
def freeSlot (w : WinIx) (l : LegIx) (s : State) : State :=
  { s with store := s.store.filter fun e => !(e.window == w && e.leg == l) }

/-- Removes one triple (R93). -/
def removeStale (w : WinIx) (l : LegIx) (g : Nat) (s : State) : State :=
  { s with store := s.store.filter fun e => !(e == { window := w, leg := l, segment := g }) }

/-- One addition to the store (R89), with the overflow rule (R90). -/
def addStale (w : WinIx) (l : LegIx) (g : Nat) (s : State) : State :=
  match memberOf s w l with
  | some m =>
    if m.state != some .stale || m.whole then s
    else if s.store.contains { window := w, leg := l, segment := g } then s
    else if s.store.length < Config.storeSize then
      { s with store := storeInsert { window := w, leg := l, segment := g } s.store }
    else
      post (.staleOverflow w l g) (freeSlot w l (modMember w l (fun m => { m with whole := true }) s))
  | none => s

/-! ## Leg queues (R135, R136) -/

/-- The three queues of a leg port. -/
inductive QueueName where
  | direct
  | lag
  | copy
  deriving DecidableEq, Repr

/-- The contents of a queue. -/
def LegPort.queue (p : LegPort) : QueueName → List LegRequest
  | .direct => p.direct
  | .lag => p.lag
  | .copy => p.copy

/-- Replaces the contents of a queue. -/
def LegPort.setQueue (p : LegPort) (q : QueueName) (rs : List LegRequest) : LegPort :=
  match q with
  | .direct => { p with direct := rs }
  | .lag => { p with lag := rs }
  | .copy => { p with copy := rs }

/-- The places of a queue (R135). -/
def QueueName.size : QueueName → Nat
  | .direct => Config.directSize
  | .lag => Config.lagSize
  | .copy => Config.copySize

/-- A request may enter the queue: the leg is UP and the queue has room (R135). -/
def canEnter (s : State) (l : LegIx) (q : QueueName) : Bool :=
  (s.leg l).state == .up && decide (((s.leg l).queue q).length < q.size)

/-- A request enters a queue at its tail with the next age (R135); a queue that takes no request stays as it is. -/
def enqueue (l : LegIx) (q : QueueName) (kind : ReqKind) (addr length : Nat) (data : List Byte) (owner : Owner)
    (s : State) : State :=
  if canEnter s l q then
    modLeg l (fun p => { p.setQueue q (p.queue q ++
      [{ kind := kind, addr := addr, length := length, data := data, owner := owner, age := p.nextAge }])
      with nextAge := p.nextAge + 1 }) s
  else s

/-- The window of the write that a queued request carries. -/
def LegRequest.writeWindow (r : LegRequest) : Option WinIx :=
  match r.owner with
  | .write _ w => w
  | .read _ => none
  | .chunk _ _ => none

/-- A queued request is an unsent write of window `w`. -/
def LegRequest.isWriteOf (w : WinIx) (r : LegRequest) : Bool := r.kind == .write && r.writeWindow == some w

/-- A queued request belongs to the rebuild engine. -/
def LegRequest.isChunk (r : LegRequest) : Bool :=
  match r.owner with
  | .chunk _ _ => true
  | .write _ _ => false
  | .read _ => false

/-- Discard for a slot: the window's unsent writes leave the leg's lag and direct queues (R136, R31 step 3, R28 step 2). -/
def discardWrites (w : WinIx) (l : LegIx) (s : State) : State :=
  (modLeg l (fun p => { p with
    direct := p.direct.filter fun r => !r.isWriteOf w
    lag := p.lag.filter fun r => !r.isWriteOf w }) s).raise

/-! ## In-flight table (R140) -/

/-- The entry holding a number. -/
def LegPort.flight (p : LegPort) (n : SeqNo) : Option Flight := p.inflight.find? (fun f => f.number == n)

/-- Changes the entry holding a number. -/
def LegPort.modFlight (p : LegPort) (n : SeqNo) (f : Flight → Flight) : LegPort :=
  { p with inflight := p.inflight.map fun x => if x.number == n then f x else x }

/-- Frees the entry holding a number. An entry whose response has been counted leaves its number in `spent`, so that the rest
of that response is not counted again (R144; log entry 13). -/
def LegPort.freeFlight (p : LegPort) (n : SeqNo) : LegPort :=
  { p with
    inflight := p.inflight.filter fun x => x.number != n
    spent := if (p.inflight.find? (fun f => f.number == n)).any (·.counted) && !p.spent.contains n
      then p.spent ++ [n] else p.spent }

/-- A LIVE entry becomes ORPHANED, and nobody awaits its outcome; an entry in another condition is left as it is (R140). -/
def Flight.orphan (f : Flight) : Flight :=
  if f.condition == .live then { f with condition := .orphaned, owner := none } else f

/-- Orphans the entries that an owner abandons. -/
def orphanWhere (l : LegIx) (own : Owner → Bool) (s : State) : State :=
  modLeg l (fun p => { p with inflight := p.inflight.map fun f => if f.owner.any own then f.orphan else f }) s

/-! ## Answer items and tags (R151, R155, R158) -/

/-- An item joins the tail of the answer queue (R158). -/
def pushAnswer (a : AnswerItem) (s : State) : State := { s with link := { s.link with answers := s.link.answers ++ [a] } }

/-- A tag enters the set of tags in use, with what is due under it (R155). -/
def admitTag (t : Tag) (d : Due) (s : State) : State :=
  { s with link := { s.link with tags := s.link.tags ++ [{ tag := t, due := d }] } }

/-- A tag is in use. -/
def tagInUse (s : State) (t : Tag) : Bool := s.link.tags.any (fun r => r.tag == t)

/-- A FAULT beat carries 16 bytes of zero (R151). -/
def faultBeat (t : Tag) (k : Nat) : AnswerItem := .beat t k .fault (List.replicate 16 0)

/-- The FAULT items of beats `k` to `k + n - 1`, in beat order (R83). -/
def faultBeats (t : Tag) : Nat → Nat → List AnswerItem
  | _, 0 => []
  | k, n + 1 => faultBeat t k :: faultBeats t (k + 1) n

/-- Items join the answer queue in order. -/
def pushAnswers (as : List AnswerItem) (s : State) : State :=
  { s with link := { s.link with answers := s.link.answers ++ as } }

/-! ## Trackers -/

/-- The write tracker entry with a reference. -/
def findWrite (s : State) (r : Nat) : Option WriteEntry := s.writes.find? (fun e => e.ref == r)

/-- Changes the write tracker entry with a reference. -/
def modWrite (r : Nat) (f : WriteEntry → WriteEntry) (s : State) : State :=
  { s with writes := s.writes.map fun e => if e.ref == r then f e else e }

/-- The read tracker entry with a reference. -/
def findRead (s : State) (r : Nat) : Option ReadEntry := s.reads.find? (fun e => e.ref == r)

/-- Changes the read tracker entry with a reference. -/
def modRead (r : Nat) (f : ReadEntry → ReadEntry) (s : State) : State :=
  { s with reads := s.reads.map fun e => if e.ref == r then f e else e }

/-- The leg addresses of an entry less that of a removed member (R4: a member added later on the same leg has none). -/
def withoutLeg (l : LegIx) (as : List (LegIx × Nat)) : List (LegIx × Nat) := as.filter fun a => a.1 != l

/-- The leg address of an entry on a leg (R4, R6). -/
def addrOn (as : List (LegIx × Nat)) (l : LegIx) : Option Nat := (as.find? (fun a => a.1 == l)).map (·.2)

/-! ## Byte order and check byte (R179, R189) -/

/-- The exclusive-or of the bytes of a frame (R179). -/
def xorBytes (bs : List Byte) : Byte := bs.foldl (· ^^^ ·) 0

/-- The `n` low bytes of a number, least significant first (R189). -/
def leBytes : Nat → Nat → List Byte
  | 0, _ => []
  | n + 1, v => BitVec.ofNat 8 v :: leBytes n (v / 256)

/-- The number that bytes carry, least significant first (R189). -/
def leNat : List Byte → Nat
  | [] => 0
  | b :: bs => b.toNat + 256 * leNat bs

end Sys2Proof.Machine
end

