-- ==== Sys2Proof/Machine/Flags.lean ====
section
/-! DEFINITION. What the state derives: window health and lead, the engine's state, extents and capacities, the ALERT line,
outstanding work, the clear link, the owed-write test, and the stall conditions. -/

namespace Sys2Proof.Machine

/-! ## Health and lead (R20, R21) -/

/-- The number of CURRENT slots of a window. -/
def currentCount (x : Window) : Nat := (x.members.filter fun m => m.state == some .current).length

/-- The health of a window; absent while DISABLED (R20). -/
def healthOf (x : Window) : Option Health :=
  if x.state == .disabled then none
  else if 2 ≤ currentCount x then some .prot
  else if currentCount x == 1 then some .exposed
  else some .lost

/-- The lead: the first CURRENT member in list order; absent while DISABLED or LOST (R21). -/
def leadOf (x : Window) : Option Member :=
  if x.state == .disabled then none else x.members.find? fun m => m.state == some .current

/-- A window is LOST. -/
def isLost (x : Window) : Bool := healthOf x == some .lost

/-! ## Ranges, extents, capacity -/

/-- The length of a window in bytes. -/
def Window.bytes (x : Window) : Nat := x.size * Config.segmentBytes

/-- An upstream address lies in the window's range (R3). -/
def Window.covers (x : Window) (a : Nat) : Bool := decide (x.base ≤ a) && decide (a < x.base + x.bytes)

/-- The window that takes part in lookup and covers an address; at most one does (R3, R11). -/
def lookupWindow (s : State) (a : Nat) : Option WinIx :=
  allWindows.find? fun w => (s.win w).state != .disabled && (s.win w).covers a

/-- The extent that starts at `base` for the window's size ends at or below the capacity in the leg's identity record; no
record, no fit (R12, R106, R134). -/
def fitsLeg (p : LegPort) (base size : Nat) : Bool :=
  match p.identity with
  | some i => decide (base + size * Config.segmentBytes ≤ i.capacity * Config.segmentBytes)
  | none => false

/-- The leg is UP. -/
def isUp (s : State) (l : LegIx) : Bool := (s.leg l).state == .up

/-- An upstream range overlaps the range of an ENABLED or DRAINING window other than `w` (R11). -/
def rangeTaken (s : State) (w : WinIx) (base bytes : Nat) : Bool :=
  allWindows.any fun v => v != w && (s.win v).state != .disabled && overlaps base bytes (s.win v).base (s.win v).bytes

/-- A leg extent overlaps the extent of a member on the same leg of an ENABLED or DRAINING window other than `skip`
(R11, R25). -/
def extentTaken (s : State) (skip : Option WinIx) (l : LegIx) (base bytes : Nat) : Bool :=
  allWindows.any fun v => skip != some v && (s.win v).state != .disabled &&
    (s.win v).members.any fun m => m.leg == l && overlaps base bytes m.base (s.win v).bytes

/-! ## Rebuild engine -/

/-- The running job: it is the head (R99). -/
def runningJob (s : State) : Option Job :=
  match s.jobs with
  | j :: _ => if j.running then some j else none
  | [] => none

/-- Engine states (R100). -/
inductive EngineState where
  | idle
  | copying
  | sourceWait
  deriving DecidableEq, Repr

/-- The engine's state, from the running job (R100). -/
def engineState (s : State) : EngineState :=
  match runningJob s with
  | none => .idle
  | some j => if j.source.isSome then .copying else .sourceWait

/-- Chunks whose read is placed and not completed (R99). -/
def Job.readsOutstanding (j : Job) : Nat := (j.chunks.filter fun c => c.phase == .reading).length

/-- Chunks whose write is placed or waiting to be placed (R99). -/
def Job.writesOutstanding (j : Job) : Nat := (j.chunks.filter fun c => c.phase == .writing).length

/-- A job for the slot (w, l) is queued or running. -/
def hasJob (s : State) (w : WinIx) (l : LegIx) : Bool := s.jobs.any fun j => j.window == w && j.target == l

/-- The running job copies segment `g` of window `w` (R54, R116). -/
def copyingSegment (s : State) (w : WinIx) (g : Nat) : Bool :=
  match runningJob s with
  | some j => j.window == w && j.segment == some g
  | none => false

/-- The engine would answer "closed" to a write to segment `g` of window `w` (R54, R117). -/
def closedFor (s : State) (w : WinIx) (g : Nat) : Bool :=
  match runningJob s with
  | some j => j.window == w && j.segment == some g && j.pass == some Config.closedPass
  | none => false

/-! ## Owed-write test (R71) -/

/-- A write tracker entry owes leg `l` and its range there overlaps the range. -/
def owedBlocks (s : State) (l : LegIx) (a n : Nat) : Bool :=
  s.writes.any fun e => e.owed.contains l &&
    match addrOn e.legAddrs l with
    | some b => overlaps a n b e.length
    | none => false

/-! ## Drain and reset conditions -/

/-- Outstanding work of a window: tracked writes (held ones included), lag queue entries, tracked reads (R16). -/
def outstanding (s : State) (w : WinIx) : Bool :=
  s.writes.any (fun e => e.window == some w) ||
  allLegs.any (fun l => (s.leg l).lag.any fun r => r.isWriteOf w) ||
  s.hold.any (fun r => (findWrite s r).any fun e => e.window == some w) ||
  s.reads.any (fun e => e.window == some w)

/-- The link is clear (R162). -/
def linkClear (s : State) : Bool :=
  s.writes.isEmpty && s.reads.isEmpty && s.link.answers.isEmpty && s.link.tags.isEmpty

/-- The ALERT output is asserted (R171). -/
def alertLine (s : State) : Bool := s.events.alertEnable && !s.events.queue.isEmpty

/-! ## Stall conditions (R47, R63) -/

/-- A slot that receives foreground writes: CURRENT or REBUILDING (R49, R50). -/
def Member.takesWrites (m : Member) : Bool := m.state == some .current || m.state == some .rebuilding

/-- The queue a member's leg receives a write in: under SYNC the direct queue; under LAGGED the direct queue for the lead and
the lag queue for the others (R49, R50). -/
def queueFor (policy : WritePolicy) (lead : Option Member) (m : Member) : QueueName :=
  match policy with
  | .sync => .direct
  | .lagged => if lead.any fun x => x.leg == m.leg then .direct else .lag

/-- The members that need a place in queue `q` for a write issued now. -/
def needing (x : Window) (policy : WritePolicy) (q : QueueName) : List Member :=
  x.members.filter fun m => m.takesWrites && queueFor policy (leadOf x) m == q

/-- The queue conditions of R47, for a write that would not be held: DIRECT_FULL, then LAG_FULL. -/
def queueStall (s : State) (x : Window) (policy : WritePolicy) : Option StallCause :=
  if (needing x policy .direct).any fun m => !canEnter s m.leg .direct then some .directFull
  else if (needing x policy .lag).any fun m => !isUp s m.leg ||
      (x.lagPolicy == .stall && decide (Config.lagSize ≤ (s.leg m.leg).lag.length)) then some .lagFull
  else none

/-- A released write to segment `g` of window `w` is still in the hold queue (R47, R56). -/
def releasedWaits (s : State) (w : WinIx) (g : Nat) : Bool :=
  s.hold.any fun r => (findWrite s r).any fun e => e.held == .released && e.window == some w && e.segment == some g

/-- The stall test of a write to segment `g` of an ENABLED window (R47), in the order of its table. -/
def writeStall (s : State) (w : WinIx) (g : Nat) : Option StallCause :=
  if Config.writeTrackerSize ≤ s.writes.length then some .trackerFull
  else if closedFor s w g && decide (Config.holdQueueSize ≤ s.hold.length) then some .holdFull
  else if releasedWaits s w g then some .holdFull
  else if closedFor s w g then none
  else queueStall s (s.win w) (s.win w).writePolicy

end Sys2Proof.Machine
end

