-- ==== Sys2Proof/Machine/Operands.lean ====
section
/-! DEFINITION. Operand forms: the argument bytes of management frames, the byte layouts of records and results (R181, R182,
R189 to R192), and the operand forms of requests and leg requests (R69, R154). -/

namespace Sys2Proof.Machine

/-! ## Argument bytes (R182 note 1) -/

/-- A window index byte, 0 to 15. -/
def winArg (b : Byte) : Option WinIx := if h : b.toNat < 16 then some ⟨b.toNat, h⟩ else none

/-- A leg byte, 0 to 3. -/
def legArg (b : Byte) : Option LegIx := if h : b.toNat < 4 then some ⟨b.toNat, h⟩ else none

/-- A seed of WINDOW_ENABLE (R11). -/
inductive Seed where
  | all
  | leg (l : LegIx)
  deriving DecidableEq, Repr

/-- A seed byte: a leg 0 to 3, or 0xFF for ALL. -/
def seedArg (b : Byte) : Option Seed := if b == 0xFF then some .all else (legArg b).map .leg

/-- A PASS_SET byte: a leg 0 to 3, or 0xFF for NONE. -/
def passArg (b : Byte) : Option (Option LegIx) := if b == 0xFF then some none else (legArg b).map some

/-- A RESYNC_QUEUE mode byte. -/
def modeArg (b : Byte) : Option JobMode :=
  if b == 0 then some .full else if b == 1 then some .stale else if b == 2 then some .auto else none

/-- An enable byte. -/
def enableArg (b : Byte) : Option Bool := if b == 0 then some false else if b == 1 then some true else none

/-- A kind mask: bits 0 and 12 to 15 name no kind that may be masked (R170, R192). -/
def maskArg (lo hi : Byte) : Option (BitVec 16) :=
  let m : BitVec 16 := BitVec.ofNat 16 (leNat [lo, hi])
  if m &&& 0xF001 == 0 then some m else none

/-- The read policy in bits 1 and 2 of a policy byte (R190). -/
def readPolicyArg (b : Byte) : Option ReadPolicy :=
  match (b.toNat / 2) % 4 with
  | 0 => some .ordered
  | 1 => some .rotate
  | 2 => some .shortest
  | _ => none

/-- The policies of a policy byte (R190). -/
structure Policies where
  write : WritePolicy
  read : ReadPolicy
  lag : LagPolicy
  auto : Bool
  deriving DecidableEq, Repr

/-- A policy byte; bits 5 to 7 must be clear and bits 1 and 2 must not hold 3 (R190). -/
def policyArg (b : Byte) : Option Policies :=
  if b.toNat / 32 != 0 then none
  else (readPolicyArg b).map fun r =>
    { write := if b.getLsbD 0 then .lagged else .sync
      read := r
      lag := if b.getLsbD 3 then .demote else .stall
      auto := b.getLsbD 4 }

/-- The (leg byte, leg base) pairs of `n` member entries of 7 bytes (R190). -/
def memberArgs : Nat → List Byte → List (Byte × Nat)
  | 0, _ => []
  | n + 1, bs => (bs.headD 0, leNat ((bs.drop 1).take 6)) :: memberArgs n (bs.drop 7)

/-- The arguments of WINDOW_SET (R190). -/
structure WindowArgs where
  window : Byte
  base : Nat
  size : Nat
  policy : Byte
  members : List (Byte × Nat)
  deriving DecidableEq, Repr

/-- Arguments of WINDOW_SET: the length is 13 + 7n for the member count n they carry (R190). -/
def windowArgs (args : List Byte) : Option WindowArgs :=
  match args with
  | w :: rest =>
    if 12 ≤ rest.length && args.length == 13 + 7 * (rest.getD 11 0).toNat then
      some { window := w
             base := leNat (rest.take 6)
             size := leNat ((rest.drop 6).take 4)
             policy := rest.getD 10 0
             members := memberArgs (rest.getD 11 0).toNat (rest.drop 12) }
    else none
  | [] => none

/-- The (leg, leg base) pairs, if every leg number is 0 to 3. -/
def legPairs : List (Byte × Nat) → Option (List (LegIx × Nat))
  | [] => some []
  | (b, a) :: rest =>
    match legArg b, legPairs rest with
    | some l, some ps => some ((l, a) :: ps)
    | _, _ => none

/-! ## Codes and layouts of results (R181, R184, R189 to R192) -/

/-- Status codes (R181). -/
def Status.code : Status → Byte
  | .done => 0x00
  | .accepted => 0x01
  | .busy => 0x02
  | .state => 0x03
  | .arg => 0x04
  | .overlap => 0x05
  | .seed => 0x06
  | .capacity => 0x07
  | .last => 0x08
  | .full => 0x09
  | .duplicate => 0x0A
  | .none => 0x0B
  | .empty => 0x0C
  | .unknown => 0x0D
  | .frame => 0x0E

/-- The bytes of a response frame: sequence echo, status, length, results, check byte (R189). -/
def Response.bytes (r : Response) : List Byte :=
  let body := r.seq :: r.status.code :: BitVec.ofNat 8 r.results.length :: r.results
  body ++ [xorBytes body]

/-- One byte for a truth value. -/
def boolByte (b : Bool) : Byte := if b then 1 else 0

/-- A leg in one byte, 0xFF when absent. -/
def legByte (l : Option LegIx) : Byte :=
  match l with
  | some l => BitVec.ofNat 8 l.val
  | none => 0xFF

/-- A count in one byte. -/
def natByte (n : Nat) : Byte := BitVec.ofNat 8 n

/-- Window state codes (R190). -/
def WindowState.code : WindowState → Byte
  | .disabled => 0
  | .enabled => 1
  | .draining => 2

/-- Health codes (R190). -/
def healthByte : Option Health → Byte
  | some .prot => 0
  | some .exposed => 1
  | some .lost => 2
  | none => 0xFF

/-- The policy byte (R190). -/
def policyByte (x : Window) : Byte :=
  natByte ((if x.writePolicy == .lagged then 1 else 0)
    + 2 * (match x.readPolicy with
      | .ordered => 0
      | .rotate => 1
      | .shortest => 2)
    + (if x.lagPolicy == .demote then 8 else 0)
    + (if x.autoRebuild then 16 else 0))

/-- The result of WINDOW_GET (R190). -/
def windowBytes (w : WinIx) (x : Window) : List Byte :=
  [natByte w.val, x.state.code] ++ leBytes 6 x.base ++ leBytes 4 x.size ++
  [policyByte x, healthByte (healthOf x), legByte ((leadOf x).map (·.leg)), natByte x.rotate, natByte x.members.length] ++
  x.members.flatMap fun m => natByte m.leg.val :: leBytes 6 m.base

/-- Slot state codes (R191). -/
def slotByte : Option SlotState → Byte
  | some .current => 0
  | some .stale => 1
  | some .rebuilding => 2
  | none => 0xFF

/-- The position of a leg in a member list, counting from 0. -/
def positionOf (ms : List Member) (l : LegIx) : Nat := (ms.findIdx? fun m => m.leg == l).getD 0

/-- The result of MEMBER_GET (R43, R191). -/
def memberBytes (s : State) (w : WinIx) (m : Member) : List Byte :=
  let job := s.jobs.find? fun j => j.window == w && j.target == m.leg
  [natByte (positionOf (s.win w).members m.leg)] ++ leBytes 6 m.base ++
  [slotByte m.state,
   natByte ((if m.whole then 1 else 0) + (if m.serial.isSome then 2 else 0)
     + (if (leadOf (s.win w)).any fun x => x.leg == m.leg then 4 else 0))] ++
  leBytes 4 (m.serial.getD 0).toNat ++ leBytes 2 (staleList s w m.leg).length ++
  match job with
  | some j => [if j.running then 2 else 1, j.number]
  | none => [0, 0]

/-- Mode codes (R191). -/
def JobMode.code : JobMode → Byte
  | .full => 0
  | .stale => 1
  | .auto => 2

/-- Engine state codes (R184). -/
def EngineState.code : EngineState → Byte
  | .idle => 0
  | .copying => 1
  | .sourceWait => 2

/-- A job record in the result of RESYNC_GET (R191). -/
def jobBytes (j : Job) : List Byte :=
  [j.number, natByte j.window.val, natByte j.target.val, j.mode.code, boolByte j.running, legByte j.source] ++
  leBytes 4 (j.segment.getD 0) ++
  [natByte (j.pass.getD 0),
   natByte ((if j.overtaken then 1 else 0) + (if j.segment.isSome then 2 else 0) + (if j.segmentsTotal.isSome then 4 else 0))] ++
  leBytes 2 j.nextChunk ++ [natByte j.readsOutstanding, natByte j.writesOutstanding] ++
  leBytes 2 j.chunksWritten ++ leBytes 4 j.segmentsDone ++ leBytes 4 (j.segmentsTotal.getD 0)

/-- Leg state codes (R192). -/
def LegState.code : LegState → Byte
  | .off => 0
  | .down => 1
  | .identifying => 2
  | .up => 3
  | .faulted => 4

/-- The in-flight entries of a leg in a condition. -/
def LegPort.countIn (p : LegPort) (c : Condition) : Nat := (p.inflight.filter fun f => f.condition == c).length

/-- The result of LEG_GET (R149, R182 note 3). -/
def legBytes (p : LegPort) : List Byte :=
  [p.state.code, boolByte p.ready, boolByte p.identity.isSome] ++
  (match p.identity with
    | some i => leBytes 4 i.serial.toNat ++ leBytes 4 i.capacity ++ [i.revision]
    | none => List.replicate 9 0) ++
  leBytes 2 p.timeout ++
  [natByte p.direct.length, natByte p.lag.length, natByte p.copy.length, natByte p.inflight.length,
   natByte (p.countIn .live), natByte (p.countIn .orphaned), natByte (p.countIn .closing), natByte (p.countIn .expired),
   p.nextNumber, natByte p.arbiter.val, natByte p.failures]

/-- Acceptance state codes (R184). -/
def AcceptState.code : AcceptState → Byte
  | .opened => 0
  | .stalled => 1
  | .resetting => 2

/-- Stall cause codes (R184). -/
def StallCause.code : StallCause → Byte
  | .none => 0
  | .tagBusy => 1
  | .trackerFull => 2
  | .readTrackerFull => 3
  | .holdFull => 4
  | .directFull => 5
  | .lagFull => 6
  | .resetting => 7

/-- Reset progress codes (R184). -/
def ResetProgress.code : ResetProgress → Byte
  | .none => 0
  | .answering => 1
  | .clearing => 2

/-- The result of STATUS_GET (R184). -/
def statusBytes (s : State) : List Byte :=
  [s.link.accept.code, s.link.cause.code, natByte s.link.tags.length] ++ leBytes 2 s.link.answers.length ++
  [natByte s.writes.length, natByte s.hold.length, natByte s.reads.length] ++ leBytes 2 s.store.length ++
  [(engineState s).code, natByte s.jobs.length, legByte s.passLeg, natByte s.events.queue.length, natByte s.events.drop,
   boolByte s.events.alertEnable] ++ leBytes 2 s.events.mask.toNat ++ [s.port.progress.code]

/-- The result of IDENT (R183). -/
def identBytes : List Byte := leBytes 2 0x5A4C ++ leBytes 2 0x2404 ++ [0x01, 4, 16, 32, 24]

/-- The six counters in the order of R173, two bytes each (R174, R182 note 4). -/
def counterBytes (c : Counters) : List Byte :=
  leBytes 2 c.readFailures ++ leBytes 2 c.writeFailures ++ leBytes 2 c.timeouts ++
  leBytes 2 c.late ++ leBytes 2 c.stray ++ leBytes 2 c.failovers

/-! ### Event records (R164, R192) -/

/-- Cause codes of LEG_CHANGE: positions in the list of R164. -/
def LegCause.code : LegCause → Byte
  | .enabled => 0
  | .disabled => 1
  | .readyRise => 2
  | .readyFall => 3
  | .identified => 4
  | .identityError => 5
  | .identityTimeout => 6
  | .writeError => 7
  | .writeTimeout => 8
  | .readFailures => 9

/-- Cause codes of MEMBER_CHANGE; SERIAL_CHANGED is 10. -/
def MemberCause.code : MemberCause → Byte
  | .added => 0
  | .removed => 1
  | .seed => 2
  | .reseed => 3
  | .cleanRejoin => 4
  | .rebuilt => 5
  | .legLeft => 6
  | .lagOverflow => 7
  | .datapathReset => 8
  | .rebuildAborted => 9

/-- Cause codes of JOB_ENDED. -/
def JobCause.code : JobCause → Byte
  | .targetDown => 0
  | .state => 1
  | .noSource => 2
  | .capacity => 3
  | .cancelled => 4
  | .removed => 5
  | .draining => 6
  | .lagOverflow => 7
  | .targetError => 8
  | .datapathReset => 9

/-- The window a record names. -/
def EventRec.window : EventRec → Option WinIx
  | .legChange _ _ _ _ => none
  | .memberChange w _ _ _ => some w
  | .serialChanged w _ _ => some w
  | .windowHealth w _ _ => some w
  | .windowDisabled w => some w
  | .jobStarted w _ _ _ => some w
  | .jobDone w _ _ => some w
  | .jobEnded w _ _ _ => some w
  | .staleOverflow w _ _ => some w
  | .capacityMismatch w _ _ => some w
  | .autoQueueFull w _ => some w
  | .resetDone => none
  | .overrun _ => none

/-- The leg a record names. -/
def EventRec.leg : EventRec → Option LegIx
  | .legChange l _ _ _ => some l
  | .memberChange _ l _ _ => some l
  | .serialChanged _ l _ => some l
  | .windowHealth _ _ _ => none
  | .windowDisabled _ => none
  | .jobStarted _ l _ _ => some l
  | .jobDone _ l _ => some l
  | .jobEnded _ l _ _ => some l
  | .staleOverflow _ l _ => some l
  | .capacityMismatch _ l _ => some l
  | .autoQueueFull _ l => some l
  | .resetDone => none
  | .overrun _ => none

/-- The cause code of a record, 0xFF when absent. -/
def EventRec.cause : EventRec → Byte
  | .legChange _ c _ _ => c.code
  | .memberChange _ _ c _ => c.code
  | .serialChanged _ _ _ => 10
  | .windowHealth _ _ _ => 0xFF
  | .windowDisabled _ => 0xFF
  | .jobStarted _ _ m _ => m.code
  | .jobDone _ _ _ => 0xFF
  | .jobEnded _ _ c _ => c.code
  | .staleOverflow _ _ _ => 0xFF
  | .capacityMismatch _ _ _ => 0xFF
  | .autoQueueFull _ _ => 0xFF
  | .resetDone => 0xFF
  | .overrun _ => 0xFF

/-- The four detail bytes of a record; absent for a kind without detail (R192). -/
def EventRec.detail : EventRec → Option (List Byte)
  | .legChange _ _ o n => some [o.code, n.code, 0, 0]
  | .memberChange _ _ _ st => some [slotByte st, 0, 0, 0]
  | .serialChanged _ _ v => some (leBytes 4 v.toNat)
  | .windowHealth _ o n => some [healthByte o, healthByte (some n), 0, 0]
  | .windowDisabled _ => none
  | .jobStarted _ _ _ n => some (leBytes 4 n.toNat)
  | .jobDone _ _ n => some (leBytes 4 n.toNat)
  | .jobEnded _ _ _ n => some (leBytes 4 n.toNat)
  | .staleOverflow _ _ g => some (leBytes 4 g)
  | .capacityMismatch _ _ c => some (leBytes 4 c)
  | .autoQueueFull _ _ => none
  | .resetDone => none
  | .overrun n => some (leBytes 4 n)

/-- A window in one byte, 0xFF when absent. -/
def windowByte (w : Option WinIx) : Byte :=
  match w with
  | some w => natByte w.val
  | none => 0xFF

/-- The event record of an EVENT_POP result and the number of records left (R192). -/
def eventBytes (e : StoredEvent) (left : Nat) : List Byte :=
  leBytes 2 e.seq.toNat ++
  [natByte e.record.kind.code, windowByte e.record.window, legByte e.record.leg, e.record.cause,
   boolByte e.record.detail.isSome] ++ e.record.detail.getD [0, 0, 0, 0] ++ [natByte left]

/-! ## Requests (R69, R154) -/

/-- A request is malformed (R154). -/
def isMalformed (r : Request) : Bool :=
  r.length == 0 || decide (256 < r.length) || decide (256 < r.addr.toNat % 256 + r.length) ||
  (r.kind == .write && r.data.length != r.length)

/-- The number of aligned 16-byte units that `n` bytes from `a` touch (R69). -/
def beatsOf (a n : Nat) : Nat := (a + n - 1) / 16 - a / 16 + 1

/-- The first byte of a read's beats from beat `k` on: the read's own address for beat 0, else the start of the beat (R69). -/
def beatStart (a k : Nat) : Nat := if k == 0 then a else a / 16 * 16 + 16 * k

/-- The 16 bytes of beat `k` of a read of `n` bytes from `a`: bytes outside the read are given as zero (R151). -/
def maskBeat (a n k : Nat) (data : List Byte) : List Byte :=
  (List.range 16).map fun i =>
    let b := a / 16 * 16 + 16 * k + i
    if a ≤ b && b < a + n then data.getD i 0 else 0

/-- The leg byte range (address, length) of the leg request a read would place on leg `l` for its undelivered beats (R69). -/
def ReadEntry.rangeOn (e : ReadEntry) (l : LegIx) : Option (Nat × Nat) :=
  (addrOn e.legAddrs l).map fun b =>
    (b + (beatStart e.addr e.delivered - e.addr), e.addr + e.length - beatStart e.addr e.delivered)

end Sys2Proof.Machine
end

