-- ==== Sys2Proof/Machine/Answers.lean ====
section
/-! DEFINITION. Write replication unit: the answers of tracked writes, their retirement, and the clearings of owed sets
(R58 to R64). -/

namespace Sys2Proof.Machine

/-- The entry's answer is handed to the request link port, and answered becomes yes (R59). -/
def answerWrite (r : Nat) (a : Answer) (s : State) : State :=
  match findWrite s r with
  | some e => if e.answered then s else pushAnswer (.write e.tag a) (modWrite r (fun e => { e with answered := true }) s)
  | none => s

/-- The entry retires when its owed set is empty, it is answered and it is not in the hold queue (R62). -/
def retireWrite (r : Nat) (s : State) : State :=
  match findWrite s r with
  | some e =>
    if e.owed.isEmpty && e.answered && e.held == .no then
      State.raise { s with writes := s.writes.filter fun x => x.ref != r }
    else s
  | none => s

/-- Some leg of the acked set belongs to a slot of the window that is CURRENT now (R59). -/
def ackedByCurrent (s : State) (e : WriteEntry) : Bool :=
  match e.window with
  | some w => e.acked.any fun l => isCurrent s w l
  | none => !e.acked.isEmpty

/-- The decision of R59 (and of R64 for PASS) when an entry's owed set has become empty: SYNC is answered OKAY if a CURRENT
slot has acknowledged, else FAULT; an unanswered LAGGED write is answered FAULT. Then the entry retires if it may (R62). -/
def decideEmptied (r : Nat) (s : State) : State :=
  match findWrite s r with
  | some e =>
    if e.owed.isEmpty && e.held == .no then
      match e.policy with
      | some .lagged => retireWrite r (answerWrite r .fault s)
      | some .sync => retireWrite r (answerWrite r (if ackedByCurrent s e then .okay else .fault) s)
      | none => retireWrite r (answerWrite r (if ackedByCurrent s e then .okay else .fault) s)
    else s
  | none => s

/-- R59 for each of some entries, in order (R61). -/
def decideAll (rs : List Nat) (s : State) : State := rs.foldl (fun s r => decideEmptied r s) s

/-- A leg leaves an entry's owed set. -/
def clearOwed (r : Nat) (l : LegIx) (s : State) : State :=
  (modWrite r (fun e => { e with owed := legErase l e.owed }) s).raiseWork

/-- The entries of window `w` that owe leg `l`, in acceptance order. -/
def owing (s : State) (w : WinIx) (l : LegIx) : List WriteEntry :=
  s.writes.filter fun e => e.window == some w && e.owed.contains l

/-- The references of those entries that owe no other leg. -/
def owingOnly (l : LegIx) (es : List WriteEntry) : List Nat :=
  (es.filter fun e => e.owed.all fun k => k == l).map (·.ref)

/-- Step 2 of R31: the leg is cleared from each entry and its segment recorded against the slot, in acceptance order (R91). -/
def clearAndRecord (w : WinIx) (l : LegIx) : List WriteEntry → State → State
  | [], s => s
  | e :: es, s =>
    clearAndRecord w l es
      (match e.segment with
        | some g => addStale w l g (clearOwed e.ref l s)
        | none => clearOwed e.ref l s)

/-- An OK acknowledgement from leg `l` for an entry (R58, R59, R64). -/
def ackWrite (r : Nat) (l : LegIx) (s : State) : State :=
  match findWrite s r with
  | some e =>
    if e.owed.contains l then
      let s1 := (modWrite r (fun e => { e with owed := legErase l e.owed, acked := legInsert l e.acked }) s).raiseWork
      let s2 := match e.policy, e.window with
        | some .lagged, some w => if isCurrent s1 w l then answerWrite r .okay s1 else s1
        | _, _ => s1
      retireWrite r (decideEmptied r s2)
    else count l .stray s
  | none => count l .stray s

/-- An error response or a timeout on leg `l` for an entry: it clears a pass-through entry's pass leg, which is answered FAULT;
a window's entry is left as it is (R60, R64). -/
def failWrite (r : Nat) (l : LegIx) (s : State) : State :=
  match findWrite s r with
  | some e =>
    if e.window == none && e.owed.contains l then decideEmptied r (clearOwed r l s) else s
  | none => s

/-- The pass leg has left UP: each pass-through entry that owes it is cleared and answered FAULT, in acceptance order (R64). -/
def clearPassLeg (l : LegIx) (s : State) : State :=
  let rs := (s.writes.filter fun e => e.window == none && e.owed.contains l).map (·.ref)
  rs.foldl (fun s r => decideEmptied r (clearOwed r l s)) s

end Sys2Proof.Machine
end

