-- ==== Sys2Proof/Machine/Membership.lean ====
section
/-! DEFINITION. Membership unit, and the parts of the rebuild engine that a slot change takes with it: abandoning chunks,
aborting the running job, restarting a segment; demotion, promotion, automatic jobs, visits of an arriving leg
(R26, R30 to R40, R101, R119 to R124). -/

namespace Sys2Proof.Machine

/-- Changes the running job's record. -/
def modJob (f : Job → Job) (s : State) : State :=
  match s.jobs with
  | j :: js => if j.running then { s with jobs := f j :: js } else s
  | [] => s

/-- Chunk requests of the engine. -/
def Owner.isChunk : Owner → Bool
  | .chunk _ _ => true
  | .write _ _ => false
  | .read _ => false

/-- The engine's unsent chunk requests leave leg `l`'s copy channel, with the notice of R135 if there are any, and its sent ones are
orphaned (R119). -/
def abandonOn (s : State) (l : LegIx) : State :=
  let s1 := orphanWhere l Owner.isChunk (modLeg l (fun p => { p with copy := p.copy.filter fun r => !r.isChunk }) s)
  if (s.leg l).copy.any LegRequest.isChunk then s1.raise else s1

/-- Every chunk in process is abandoned (R119). -/
def abandonChunks (s : State) : State :=
  (modJob (fun j => { j with chunks := [] }) (allLegs.foldl abandonOn s)).raiseWork

/-- The hold queue is marked released: every held write in it (R56). -/
def markReleased (s : State) : State :=
  State.raiseHead { s with writes := s.writes.map fun e => if e.held == .held then { e with held := .released } else e }

/-- The running job leaves the queue, its chunks abandoned and the hold queue released (R124 parts 1 to 3). -/
def abortJob (s : State) : State :=
  match runningJob s with
  | some _ => 
    let s1 := abandonChunks s
    markReleased { s1 with jobs := s1.jobs.tail }
  | none => s

/-- The lead's leg becomes the source if it is UP; otherwise the source is absent: SOURCE_WAIT (R108). -/
def takeSource (s : State) : State :=
  match runningJob s with
  | some j =>
    let src := match leadOf (s.win j.window) with
      | some m => if isUp s m.leg then some m.leg else none
      | none => none
    (modJob (fun j => { j with source := src }) s).raiseWork
  | none => s

/-- The segment is copied again from its first chunk in the same pass, from the source as the lead stands (R120 steps 1 to 3). -/
def restartPass (s : State) : State :=
  takeSource (modJob (fun j => { j with overtaken := false, nextChunk := 0, chunksWritten := 0 }) (abandonChunks s))

/-- WINDOW_HEALTH is posted when the recomputed health differs from the previous (R20). -/
def postChange (w : WinIx) (old new : Option Health) (s : State) : State :=
  match new with
  | some h => if old == some h then s else post (.windowHealth w old h) s
  | none => s

/-- WINDOW_HEALTH for the health as it stands, if it differs from the previous (R20). -/
def postHealth (w : WinIx) (old : Option Health) (s : State) : State := postChange w old (healthOf (s.win w)) s

/-- The running job's source is leg `l` of window `w`. -/
def isSource (s : State) (w : WinIx) (l : LegIx) : Bool :=
  (runningJob s).any fun j => j.window == w && j.source == some l

/-- One demotion (R31). `jobCause` is the JOB_ENDED cause if the slot was REBUILDING; `setWhole` sets WHOLE on it (R33). `issue` takes
the writes that an abort releases: it issues them after step 5 and before step 6 (log entry 24), or leaves them where the caller
issues them later (R48 part 3) or never (R65). -/
def demoteOne (issue : State → State) (w : WinIx) (l : LegIx) (cause : MemberCause) (jobCause : JobCause) (setWhole : Bool) (s : State) : State :=
  if slotState s w l == some .current || slotState s w l == some .rebuilding then
    let old := healthOf (s.win w)
    let ended := if slotState s w l == some .rebuilding then runningJob s else none
    let s1 := (modMember w l (fun m => { m with state := some .stale, whole := m.whole || setWhole }) s).raise
    let s2 := if setWhole then freeSlot w l s1 else s1
    let es := owing s2 w l
    let s3 := discardWrites w l (clearAndRecord w l es s2)
    let s4 := if ended.isSome then abortJob s3 else if isSource s3 w l then restartPass s3 else s3
    let new := healthOf (s4.win w)
    let s5 := if ended.isSome then issue s4 else s4
    let s6 := decideAll (owingOnly l es) s5
    let s7 := match ended with
      | some j => post (.jobEnded j.window j.target jobCause j.number) s6
      | none => s6
    postChange w old new (post (.memberChange w l cause (some .stale)) s7)
  else s

/-- The REBUILDING slot of a window that has become LOST (R33): the job ends with NO_SOURCE and the slot is set WHOLE. -/
def lostTarget (issue : State → State) (w : WinIx) (s : State) : State :=
  match runningJob s with
  | some j =>
    if j.window == w && isLost (s.win w) then demoteOne issue w j.target .rebuildAborted .noSource true s else s
  | none => s

/-- A demotion with its effects, and those of R33 if the window is now LOST (R30, R31, R33). A slot that is neither CURRENT nor
REBUILDING, or no slot at all, is left alone (R30). The model's choice (log entry 37): R33's demotion of the REBUILDING slot, which
step 5 of R31 names and for which R33 fixes only the order of records, is taken after step 7 of the first demotion. -/
def demoteWith (issue : State → State) (w : WinIx) (l : LegIx) (cause : MemberCause) (jobCause : JobCause) (s : State) : State :=
  lostTarget issue w (demoteOne issue w l cause jobCause false s)

/-- A demotion that leaves the writes of an abort in the hold queue: those of R48 part 3 and of a release, whose own writes come first
(R52, R56), and those of a datapath reset, which answers the writes instead (R65). -/
def demoteHolding (w : WinIx) (l : LegIx) (cause : MemberCause) (jobCause : JobCause) (s : State) : State :=
  demoteWith id w l cause jobCause s

/-- A job as it is queued (R99, R101). The model's choice (log entry 39): next chunk, chunks written and segments done, which R99 gives
only a range while QUEUED, are 0 until the job starts. -/
def newJob (number : BitVec 8) (w : WinIx) (l : LegIx) (mode : JobMode) : Job :=
  { number := number, window := w, target := l, mode := mode, running := false, source := none, segment := none,
    pass := none, overtaken := false, nextChunk := 0, chunks := [], chunksWritten := 0, segmentsDone := 0,
    segmentsTotal := none }

/-- A job is placed at the tail with the next job number, which then advances, from 255 to 0 (R101); that it may come round to the number of
a job still present is log entry 41. -/
def placeJob (w : WinIx) (l : LegIx) (mode : JobMode) (s : State) : State :=
  State.raiseWork { s with jobs := s.jobs ++ [newJob s.nextJob w l mode], nextJob := s.nextJob + 1 }

/-- The job for a slot leaves the queue, and the others keep their order (R28 step 4, R103). The model's choice (log entry 41): it is told
from the others by its slot, which R102 lets no other job share, and not by its number, which 256 queueings bring round again. -/
def dropSlotJob (w : WinIx) (l : LegIx) (s : State) : State :=
  { s with jobs := s.jobs.filter fun k => !(k.window == w && k.target == l) }

/-- An AUTO job for the slot, or AUTO_QUEUE_FULL when the queue holds 8 jobs (R14, R26, R40, R101). -/
def queueAuto (w : WinIx) (l : LegIx) (s : State) : State :=
  if s.jobs.length < Config.jobQueueSize then placeJob w l .auto s else post (.autoQueueFull w l) s

/-- The jobs of R14: for each STALE member, in list order, whose leg is UP, whose extent fits and which has no job. -/
def queueAutoJobs (w : WinIx) (s : State) : State :=
  (s.win w).members.foldl (fun s m =>
    if slotState s w m.leg == some .stale && isUp s m.leg && fitsLeg (s.leg m.leg) m.base (s.win w).size && !hasJob s w m.leg
    then queueAuto w m.leg s else s) s

/-- The serial in a leg's identity record. -/
def serialOf (s : State) (l : LegIx) : Option (BitVec 32) := (s.leg l).identity.map (·.serial)

/-- The slot becomes CURRENT: WHOLE clear, its entries freed, bound to the serial on record (R34 less its records). -/
def makeCurrent (w : WinIx) (l : LegIx) (s : State) : State :=
  (freeSlot w l
    (modMember w l (fun m => { m with state := some .current, whole := false, serial := serialOf s l }) s)).raise

/-- A promotion with its records (R34). -/
def promote (w : WinIx) (l : LegIx) (cause : MemberCause) (s : State) : State :=
  postHealth w (healthOf (s.win w)) (post (.memberChange w l cause (some .current)) (makeCurrent w l s))

/-- A slot is set WHOLE and its entries freed (R94). -/
def makeWhole (w : WinIx) (l : LegIx) (s : State) : State :=
  freeSlot w l (modMember w l (fun m => { m with whole := true }) s)

/-- The rule of R40 for a slot that did not rejoin. -/
def arrivalJob (w : WinIx) (l : LegIx) (s : State) : State :=
  if (s.win w).state == .enabled && !isLost (s.win w) && (s.win w).autoRebuild && !hasJob s w l then queueAuto w l s else s

/-- Clean rejoin (R39), and the jobs of R14 when it ends the window's LOST period. -/
def cleanRejoin (w : WinIx) (l : LegIx) (s : State) : State :=
  let wasLost := isLost (s.win w)
  let s1 := promote w l .cleanRejoin s
  if wasLost && (s1.win w).state == .enabled && (s1.win w).autoRebuild then queueAutoJobs w s1 else s1

/-- The visit of one STALE slot on a leg that has reached UP: serial test, capacity test, clean rejoin or job (R37 to R40). -/
def visitSlot (w : WinIx) (m : Member) (i : Identity) (s : State) : State :=
  let changed := m.serial.any fun v => v != i.serial
  let s1 := if changed then post (.serialChanged w m.leg i.serial) (makeWhole w m.leg s) else s
  if !fitsLeg (s1.leg m.leg) m.base (s1.win w).size then post (.capacityMismatch w m.leg i.capacity) s1
  else if !changed && !m.whole && (staleList s1 w m.leg).isEmpty then cleanRejoin w m.leg s1
  else arrivalJob w m.leg s1

/-- The visit of leg `l`'s slot of window `w`, if it is STALE (R37). -/
def visitWindow (l : LegIx) (s : State) (w : WinIx) : State :=
  match memberOf s w l, (s.leg l).identity with
  | some m, some i => if (s.win w).state != .disabled && m.state == some .stale then visitSlot w m i s else s
  | _, _ => s

/-- The membership unit visits the arrived leg's slots in ascending window index (R37). -/
def visitSlots (l : LegIx) (s : State) : State := allWindows.foldl (visitWindow l) s

end Sys2Proof.Machine
end

