-- ==== Sys2Proof/Machine/Issue.lean ====
section
/-! DEFINITION. Write replication unit: placing writes on legs with the withdrawals they bring, issue under each policy, stale
marking, lag overflow, the report to the engine, acceptance and release (R48 to R57, R63, R77, R112, R116). -/

namespace Sys2Proof.Machine

/-! ## Withdrawals (R77, R112, R136) -/

/-- An unsent read of the queue whose range overlaps a write's. -/
def LegRequest.readIn (a n : Nat) (r : LegRequest) : Bool := r.kind == .read && overlaps a n r.addr r.length

/-- A withdrawn read returns to WAITING on another footing: the leg leaves the tried set (R77). -/
def withdrawRead (l : LegIx) (s : State) (r : LegRequest) : State :=
  match r.owner with
  | .read ref =>
    modRead ref (fun e => { e with tried := legErase l e.tried, current := none, issueBeat := none }) s
  | .write _ _ => s
  | .chunk _ _ => s

/-- The unsent reads of leg `l`'s direct queue that overlap a write are withdrawn (R77). -/
def withdrawReads (l : LegIx) (a n : Nat) (s : State) : State :=
  let out := (s.leg l).direct.filter (LegRequest.readIn a n)
  if out.isEmpty then s
  else
    (out.foldl (withdrawRead l)
      (modLeg l (fun p => { p with direct := p.direct.filter fun r => !r.readIn a n }) s)).raise

/-- The chunk of a queued chunk read. -/
def LegRequest.chunkRead (r : LegRequest) : Option Nat :=
  match r.kind, r.owner with
  | .read, .chunk _ c => some c
  | _, _ => none

/-- The unsent chunk reads of leg `l`'s copy channel from the lowest one that overlaps a write are taken back; next chunk is set
back to it (R112). -/
def withdrawChunks (l : LegIx) (a n : Nat) (s : State) : State :=
  match ((s.leg l).copy.filter (LegRequest.readIn a n)).filterMap LegRequest.chunkRead with
  | [] => s
  | c :: cs =>
    let low := cs.foldl min c
    let s1 := modLeg l (fun p => { p with copy := p.copy.filter fun r => !r.chunkRead.any fun k => decide (low ≤ k) }) s
    (modJob (fun j => { j with
      chunks := j.chunks.filter fun k => !(k.phase == .reading && decide (low ≤ k.index))
      nextChunk := low }) s1).raise

/-! ## Placing a write on a leg -/

/-- An entry's write is placed in a queue of leg `l`, the leg joins its owed set, and the unsent reads it overlaps are withdrawn
in the same step (R49, R50, R63, R77). A queue that takes no request takes none. -/
def placeWrite (r : Nat) (l : LegIx) (q : QueueName) (s : State) : State :=
  match findWrite s r with
  | some e =>
    match addrOn e.legAddrs l with
    | some a =>
      if canEnter s l q then
        let s1 := withdrawChunks l a e.length (withdrawReads l a e.length s)
        let s2 := enqueue l q .write a e.length e.data (.write r e.window) s1
        (modWrite r (fun e => { e with owed := legInsert l e.owed }) s2).raiseWork
      else s
    | none => s
  | none => s

/-- Issue of a window's write: each CURRENT or REBUILDING member receives it in list order, in the queue its policy gives (R49,
R50); then each STALE member's miss is recorded (R51). -/
def issueWrite (r : Nat) (w : WinIx) (g : Nat) (policy : WritePolicy) (s : State) : State :=
  let x := s.win w
  let s1 := (x.members.filter Member.takesWrites).foldl
    (fun s m => placeWrite r m.leg (queueFor policy (leadOf x) m) s) s
  (x.members.foldl (fun s m => addStale w m.leg g s) s1).raiseWork

/-- The lag-overflow demotions of a LAGGED window under DEMOTE: each member that needs a lag place, is UP and finds 64 writes in
its lag queue, in list order (R48 part 3, R52). A job that one of them aborts leaves its released writes in the hold queue (R48 part 3). -/
def lagOverflow (w : WinIx) (policy : WritePolicy) (s : State) : State :=
  if policy == .lagged && (s.win w).lagPolicy == .demote then
    (needing (s.win w) .lagged .lag).foldl (fun s m =>
      if isUp s m.leg && decide (Config.lagSize ≤ (s.leg m.leg).lag.length)
      then demoteHolding w m.leg .lagOverflow .lagOverflow s else s) s
  else s

/-- The report of a write to the current segment in an open pass: the pass is overtaken (R54, R116). -/
def reportOpen (w : WinIx) (g : Nat) (s : State) : State :=
  if copyingSegment s w g then modJob (fun j => { j with overtaken := true }) s else s

/-! ## Translation (R4) -/

/-- The leg addresses of an upstream address: one per member of the window (R4). -/
def translations (x : Window) (a : Nat) : List (LegIx × Nat) := x.members.map fun m => (m.leg, m.base + (a - x.base))

/-- The segment of an upstream address in its window (R4). -/
def segmentOf (x : Window) (a : Nat) : Nat := (a - x.base) / Config.segmentBytes

/-! ## Release (R56, R57) -/

/-- The entry leaves the hold queue (R56 step 4). -/
def unhold (r : Nat) (s : State) : State :=
  State.raiseHead { modWrite r (fun e => { e with held := .no }) s with hold := s.hold.filter (· != r) }

/-- The leg addresses of a released write are those of the window's list as it stands (R57; log entry 27). -/
def refreshAddrs (r : Nat) (x : Window) (s : State) : State :=
  modWrite r (fun e => { e with legAddrs := translations x e.addr }) s

/-- The outcome of one released write: the state after it, and whether the release goes on. -/
structure Released where
  state : State
  goOn : Bool

/-- One released write (R56, R57). It is reported: if it meets a closed pass it stays, held again, and an open pass is overtaken. In a
LOST window it is answered FAULT. The overflow test of R52 follows; then the release pauses at it if a queue it needs takes no request,
and else it is issued. -/
def releaseOne (r : Nat) (s : State) : Released :=
  match findWrite s r with
  | some e =>
    match e.window, e.segment, e.policy with
    | some w, some g, some p =>
      if closedFor s w g then ⟨modWrite r (fun e => { e with held := .held }) s, true⟩
      else if (leadOf (s.win w)).isNone then ⟨decideEmptied r (unhold r s), true⟩
      else
        let s1 := lagOverflow w p (reportOpen w g s)
        if (queueStall s1 (s1.win w) p).isSome then ⟨s1, false⟩
        else ⟨issueWrite r w g p (unhold r (refreshAddrs r (s1.win w) s1)), true⟩
    | _, _, _ => ⟨s, false⟩
  | none => ⟨s, false⟩

/-- The first write of the hold queue whose release has been taken. -/
def nextReleased (s : State) : Option Nat := s.hold.find? fun r => (findWrite s r).any fun e => e.held == .released

/-- The released writes are issued from the head of the hold queue, in order, until one pauses the release (R56); at most `n`. -/
def releaseLoop : Nat → State → State
  | 0, s => s
  | n + 1, s =>
    match nextReleased s with
    | some r => if (releaseOne r s).goOn then releaseLoop n (releaseOne r s).state else (releaseOne r s).state
    | none => s

/-- A release is resumed, and completes or pauses, which retries the head (R56, R157). Each write is met at most twice: a write held again
by a closed pass is released once more if an overflow demotion aborts the job. -/
def resumeRelease (s : State) : State :=
  if (nextReleased s).isSome then (releaseLoop (2 * s.hold.length) s).raiseHead else s

/-- A paused release is resumed if a change that resumes it has been noted (R56). -/
def resumeIfDue (s : State) : State :=
  if s.notice.release then resumeRelease { s with notice := { s.notice with release := false } } else s

/-! ## Demotions whose released writes are issued at once (R28, R31) -/

/-- A demotion, the writes that an abort releases issued within it (R31 step 4, R124). -/
def demote (w : WinIx) (l : LegIx) (cause : MemberCause) (jobCause : JobCause) (s : State) : State :=
  demoteWith resumeRelease w l cause jobCause s

/-- The running job ends with NO_SOURCE if its window is LOST (R33, R108, R126). -/
def endIfLost (w : WinIx) (s : State) : State := lostTarget resumeRelease w s

/-- LEG_LEFT demotions of every slot on a leg, in ascending window order (R30). -/
def demoteLeg (l : LegIx) (s : State) : State := allWindows.foldl (fun s w => demote w l .legLeft .targetDown s) s

/-! ## Acceptance (R48, R63) -/

/-- The tracker entry of an accepted write to a window (R44, R48 part 1). -/
def windowWrite (s : State) (w : WinIx) (r : Request) : WriteEntry :=
  { ref := s.nextRef, tag := r.tag, window := some w, addr := r.addr.toNat, length := r.length,
    segment := some (segmentOf (s.win w) r.addr.toNat), legAddrs := translations (s.win w) r.addr.toNat, data := r.data,
    policy := some (s.win w).writePolicy, owed := [], acked := [], answered := false, held := .no }

/-- An entry joins the tail of the write tracker. -/
def addWrite (e : WriteEntry) (s : State) : State :=
  { s with writes := s.writes ++ [e], nextRef := s.nextRef + 1 }

/-- Acceptance of a write to an ENABLED window that is not LOST, its stall tests passed (R48). The writes that a demotion of part 3
has released, and a release that space lets go on, follow part 6 (R48 part 3, R135). -/
def acceptWrite (w : WinIx) (r : Request) (s : State) : State :=
  let e := windowWrite s w r
  let g := segmentOf (s.win w) r.addr.toNat
  let s1 := addWrite e s
  if closedFor s1 w g then
    { modWrite e.ref (fun e => { e with held := .held }) s1 with hold := s1.hold ++ [e.ref] }
  else
    resumeIfDue (issueWrite e.ref w g (s.win w).writePolicy (lagOverflow w (s.win w).writePolicy (reportOpen w g s1)))

/-- Acceptance of a pass-through write, its stall tests passed (R63). -/
def acceptPassWrite (l : LegIx) (r : Request) (s : State) : State :=
  placeWrite s.nextRef l .direct
    (addWrite { ref := s.nextRef, tag := r.tag, window := none, addr := r.addr.toNat, length := r.length, segment := none,
                legAddrs := [(l, r.addr.toNat)], data := r.data, policy := none, owed := [], acked := [],
                answered := false, held := .no } s)

end Sys2Proof.Machine
end

