-- ==== Sys2Proof/Machine/Steering.lean ====
section
/-! DEFINITION. Read steering unit: the choice of a member, placing, waiting and giving up, beats and failures, acceptance of
reads (R66 to R86). -/

namespace Sys2Proof.Machine

/-! ## Eligibility and choice (R70 to R73) -/

/-- No write tracker entry owes leg `l` a range that overlaps what the read would ask for there (R71). -/
def readFree (s : State) (e : ReadEntry) (l : LegIx) : Bool :=
  match e.rangeOn l with
  | some (a, n) => !owedBlocks s l a n
  | none => false

/-- Leg `l` can serve the read: UP, room in its direct queue, untried, no owed write in the way (R70, R85). -/
def canServe (s : State) (e : ReadEntry) (l : LegIx) : Bool :=
  canEnter s l .direct && !e.tried.contains l && readFree s e l

/-- A member is eligible for a leg request of the read (R70). -/
def eligible (s : State) (e : ReadEntry) (m : Member) : Bool := m.state == some .current && canServe s e m.leg

/-- The members in the order a policy searches them: from the rotate pointer under ROTATE, else list order (R72, R73). -/
def searchOrder (x : Window) : List Member :=
  if x.readPolicy == .rotate then x.members.drop x.rotate ++ x.members.take x.rotate else x.members

/-- The first of the members whose leg has the fewest in-flight entries (R72). -/
def fewest (s : State) : List Member → Option Member
  | [] => none
  | m :: ms =>
    match fewest s ms with
    | none => some m
    | some k => if (s.leg m.leg).inflight.length ≤ (s.leg k.leg).inflight.length then some m else some k

/-- The member that receives the leg request, if any is eligible (R72, R73). -/
def choose (s : State) (e : ReadEntry) (x : Window) : Option Member :=
  match x.readPolicy with
  | .ordered => (searchOrder x).find? (eligible s e)
  | .rotate => (searchOrder x).find? (eligible s e)
  | .shortest => fewest s (x.members.filter (eligible s e))

/-! ## Placing and giving up (R74, R75, R83) -/

/-- A leg request for the undelivered beats is placed on leg `l`; a resume credits the failed leg with one failover (R74, R82). -/
def placeRead (r : Nat) (l : LegIx) (s : State) : State :=
  match findRead s r with
  | some e =>
    match e.rangeOn l with
    | some (a, n) =>
      let s1 := modRead r (fun e => { e with tried := legInsert l e.tried, current := some l, issueBeat := some e.delivered,
                                             failedOn := none }) (enqueue l .direct .read a n [] (.read r) s)
      match e.failedOn with
      | some k => count k .failovers s1
      | none => s1
    | none => s
  | none => s

/-- The position after a member, 0 after the last (R73). -/
def positionAfter (ms : List Member) (l : LegIx) : Nat :=
  if positionOf ms l + 1 < ms.length then positionOf ms l + 1 else 0

/-- Under ROTATE a placement moves the pointer to the position after the chosen member, 0 after the last (R73). -/
def advanceRotate (w : WinIx) (l : LegIx) (s : State) : State :=
  if (s.win w).readPolicy == .rotate then
    modWin w (fun x => { x with rotate := positionAfter x.members l }) s
  else s

/-- An entry leaves the read tracker (R83). -/
def retireRead (r : Nat) (s : State) : State := State.raiseHead { s with reads := s.reads.filter fun e => e.ref != r }

/-- Every undelivered beat is answered FAULT and the entry retires (R83). -/
def faultRead (r : Nat) (s : State) : State :=
  match findRead s r with
  | some e => retireRead r (pushAnswers (faultBeats e.tag e.delivered (e.beatsTotal - e.delivered)) s)
  | none => s

/-- Steering of a read of window `w` (R75). -/
def steerWindow (e : ReadEntry) (w : WinIx) (s : State) : State :=
  if isLost (s.win w) then faultRead e.ref s
  else
    match choose s e (s.win w) with
    | some m => advanceRotate w m.leg (placeRead e.ref m.leg s)
    | none =>
      if (s.win w).members.any (fun m => m.state == some .current && !e.tried.contains m.leg) then s else faultRead e.ref s

/-- Steering of a pass-through read, its pass leg the only candidate (R85). -/
def steerPass (e : ReadEntry) (l : LegIx) (s : State) : State :=
  if canServe s e l then placeRead e.ref l s
  else if isUp s l && !e.tried.contains l then s
  else faultRead e.ref s

/-- Steering of a WAITING entry (R75, R85); an ISSUED one is left alone. -/
def steer (r : Nat) (s : State) : State :=
  match findRead s r with
  | some e =>
    if e.current.isSome then s
    else
      match e.window, e.legAddrs with
      | some w, _ => steerWindow e w s
      | none, a :: _ => steerPass e a.1 s
      | none, [] => faultRead r s
  | none => s

/-- The WAITING entries are steered again, in acceptance order (R76). -/
def reconsider (s : State) : State := (s.reads.map (·.ref)).foldl (fun s r => steer r s) s

/-! ## Beats and failures (R78 to R82) -/

/-- A failure of the current leg request on leg `l`: it ends, and the entry is steered for its undelivered beats (R79 steps 2
and 3, R80, R81). -/
def failRead (r : Nat) (l : LegIx) (s : State) : State :=
  steer r (modRead r (fun e => { e with current := none, issueBeat := none,
                                        failedOn := if e.window.isSome then some l else none }) s)

/-- A beat without error is handed to the request link port as the read's next beat; the last one retires the entry (R78, R83). -/
def deliverBeat (r : Nat) (data : List Byte) (s : State) : State :=
  match findRead s r with
  | some e =>
    let s1 := pushAnswer (.beat e.tag e.delivered .okay (maskBeat e.addr e.length e.delivered data))
      (modRead r (fun e => { e with delivered := e.delivered + 1 }) s)
    if e.delivered + 1 == e.beatsTotal then retireRead r s1 else s1
  | none => s

/-- The reads whose current leg is `l`, in acceptance order. -/
def readsOn (s : State) (l : LegIx) : List ReadEntry := s.reads.filter fun e => e.current == some l

/-- The leg has left UP: each read on it fails at its first undelivered beat, in acceptance order (R81). -/
def failReadsOn (l : LegIx) (s : State) : State := ((readsOn s l).map (·.ref)).foldl (fun s r => failRead r l s) s

/-- A read's leg request is taken back from leg `l`: unsent it leaves the direct queue, sent it is orphaned (R29, R136). -/
def dropRead (r : Nat) (l : LegIx) (s : State) : State :=
  (orphanWhere l (fun o => o == .read r) (modLeg l (fun p => { p with direct := p.direct.filter fun q => q.owner != .read r }) s)).raise

/-- A removed member's leg address leaves the reads of window `w`: a member added later on that leg has none (R4, R70). -/
def dropReadAddr (w : WinIx) (l : LegIx) (s : State) : State :=
  { s with reads := s.reads.map fun e => if e.window == some w then { e with legAddrs := withoutLeg l e.legAddrs } else e }

/-- The reads of window `w` on a removed member's leg are taken back and resumed, one after another (R29, R84). The model's choice (log
entry 38): several are taken in acceptance order, which R29 and R84 do not give. -/
def takeBackReads (w : WinIx) (l : LegIx) (s : State) : State :=
  (((readsOn s l).filter fun e => e.window == some w).map (·.ref)).foldl (fun s r => failRead r l (dropRead r l s)) s

/-! ## Acceptance (R68, R85) -/

/-- The tracker entry of an accepted read (R66, R68 step 3). -/
def newRead (ref : Nat) (w : Option WinIx) (segment : Option Nat) (addrs : List (LegIx × Nat)) (r : Request) : ReadEntry :=
  { ref := ref, tag := r.tag, window := w, addr := r.addr.toNat, length := r.length, segment := segment, legAddrs := addrs,
    beatsTotal := beatsOf r.addr.toNat r.length, delivered := 0, tried := [], current := none, issueBeat := none,
    failedOn := none }

/-- An entry joins the tail of the read tracker and is steered at once (R68 step 3). -/
def addRead (e : ReadEntry) (s : State) : State :=
  steer e.ref { s with reads := s.reads ++ [e], nextRef := s.nextRef + 1 }

/-- Acceptance of a read to an ENABLED window that is not LOST (R68). -/
def acceptRead (w : WinIx) (r : Request) (s : State) : State :=
  addRead (newRead s.nextRef (some w) (some (segmentOf (s.win w) r.addr.toNat)) (translations (s.win w) r.addr.toNat) r) s

/-- Acceptance of a pass-through read (R85). -/
def acceptPassRead (l : LegIx) (r : Request) (s : State) : State :=
  addRead (newRead s.nextRef none none [(l, r.addr.toNat)] r) s

end Sys2Proof.Machine
end

