-- ==== Sys2Proof/Machine/Rebuild.lean ====
section
/-! DEFINITION. Rebuild engine: start attempts, the source, segments and passes, chunks, completion, failures (R105 to R122). -/

namespace Sys2Proof.Machine

/-! ## Segments and source (R108, R110) -/

/-- The leg address of chunk `c` of segment `g` in a copy that starts at `base` (R111). -/
def chunkAddr (base g c : Nat) : Nat := base + g * Config.segmentBytes + c * Config.chunkBytes

/-- The source is taken at a segment start; a window without lead ends the job with NO_SOURCE (R108). -/
def takeSourceOrEnd (w : WinIx) (s : State) : State := endIfLost w (takeSource s)

/-- The segment a running job copies next: in FULL mode the first not yet done, in STALE mode the target's lowest entry (R110
step 1). -/
def nextSegment (s : State) (j : Job) : Option Nat :=
  if j.mode == .full then some j.segmentsDone else (staleList s j.window j.target).head?

/-- A segment start (R110): segment, pass 1, source. The chunk reads follow as a reaction. -/
def segmentStart (s : State) : State :=
  match runningJob s with
  | some j =>
    takeSourceOrEnd j.window (modJob (fun j => { j with
      segment := nextSegment s j, pass := some 1, overtaken := false, nextChunk := 0, chunksWritten := 0 }) s)
  | none => s

/-- The segment is copied again with the pass increased by one (R110, R115). -/
def repeatSegment (s : State) : State :=
  match runningJob s with
  | some j =>
    takeSourceOrEnd j.window (modJob (fun j => { j with
      pass := j.pass.map (· + 1), overtaken := false, nextChunk := 0, chunksWritten := 0 }) s)
  | none => s

/-- An engine in SOURCE_WAIT takes the source again: the lead's leg if it is UP; without a lead the job ends with NO_SOURCE (R108). -/
def retakeSource (s : State) : State :=
  match runningJob s with
  | some j =>
    if j.source.isNone && j.segment.isSome then
      match leadOf (s.win j.window) with
      | some m => if isUp s m.leg then takeSource s else s
      | none => endIfLost j.window s
    else s
  | none => s

/-! ## Completion (R118, R36) -/

/-- The running job completes: the target becomes CURRENT, the job leaves the queue, and the records follow (R118, R36). -/
def completeJob (s : State) : State :=
  match runningJob s with
  | some j =>
    if slotState s j.window j.target == some .rebuilding then
      let s1 := makeCurrent j.window j.target s
      let s2 := post (.jobDone j.window j.target j.number) { s1 with jobs := s1.jobs.tail }
      postHealth j.window (healthOf (s.win j.window)) (post (.memberChange j.window j.target .rebuilt (some .current)) s2)
    else s
  | none => s

/-- The running job has copied all it had to (R115). -/
def jobComplete (s : State) (j : Job) : Bool :=
  if j.mode == .full then j.segmentsDone == (s.win j.window).size else (staleList s j.window j.target).isEmpty

/-- Completion test and next segment start of the job with this number, if it still runs (R115). -/
def afterSegment (number : BitVec 8) (s : State) : State :=
  match runningJob s with
  | some j => if j.number == number then (if jobComplete s j then completeJob s else segmentStart s) else s
  | none => s

/-- A segment end (R115): the segment is repeated if its pass was overtaken; else it is done, its stale entry removed, the hold
queue of a closed pass released, and the completion tested. -/
def segmentEnd (s : State) : State :=
  match runningJob s with
  | some j =>
    match j.segment, j.pass with
    | some g, some p =>
      if j.overtaken && decide (p < Config.closedPass) then repeatSegment s
      else
        let s1 := modJob (fun j => { j with segment := none, pass := none, segmentsDone := j.segmentsDone + 1 }) s
        let s2 := if j.mode == .full then s1 else removeStale j.window j.target g s1
        let s3 := if p == Config.closedPass then resumeRelease (markReleased s2) else s2
        afterSegment j.number s3
    | _, _ => s
  | none => s

/-! ## Chunks (R111 to R114) -/

/-- The read of chunk next chunk may be placed now: a source, fewer than 4 chunks in process, a chunk left, room in the copy
channel, and no write owed over its range (R111, R112). Its leg and address. -/
def chunkReadDue (s : State) (j : Job) : Option (LegIx × Nat) :=
  match j.source, j.segment with
  | some l, some g =>
    match memberOf s j.window l with
    | some m =>
      let a := chunkAddr m.base g j.nextChunk
      if decide (j.chunks.length < Config.chunksInProcess) && decide (j.nextChunk < Config.chunksPerSegment)
        && canEnter s l .copy && !owedBlocks s l a Config.chunkBytes then some (l, a) else none
    | none => none
  | _, _ => none

/-- A chunk whose read has just been placed. -/
def newChunk (c : Nat) : Chunk := { index := c, phase := .reading, data := [] }

/-- Chunk reads are placed in ascending order while R111 and R112 let them; at most `n`. -/
def placeChunkReadsUpTo : Nat → State → State
  | 0, s => s
  | n + 1, s =>
    match runningJob s with
    | some j =>
      match chunkReadDue s j with
      | some (l, a) =>
        placeChunkReadsUpTo n
          (modJob (fun j => { j with nextChunk := j.nextChunk + 1, chunks := j.chunks ++ [newChunk j.nextChunk] })
            (enqueue l .copy .read a Config.chunkBytes [] (.chunk j.number j.nextChunk) s))
      | none => s
    | none => s

/-- The engine places what chunk reads it can: at most 4 are in process (R111). -/
def placeChunkReads (s : State) : State := placeChunkReadsUpTo Config.chunksInProcess s

/-- Chunk `c` of the job with a number is in process in a phase. -/
def inProcess (s : State) (number : BitVec 8) (c : Nat) (ph : ChunkPhase) : Bool :=
  (runningJob s).any fun j => j.number == number && j.chunks.any fun k => k.index == c && k.phase == ph

/-- Changes chunk `c` of the running job. -/
def modChunk (c : Nat) (f : Chunk → Chunk) (s : State) : State :=
  modJob (fun j => { j with chunks := j.chunks.map fun k => if k.index == c then f k else k }) s

/-- The data that chunk `c` has read so far. -/
def Job.chunkData (j : Job) (c : Nat) : List Byte := ((j.chunks.find? fun k => k.index == c).map (·.data)).getD []

/-- The write of chunk `c` is placed in the target leg's copy channel (R113); a target leg that is not UP takes none. -/
def placeChunkWrite (c : Nat) (s : State) : State :=
  match runningJob s with
  | some j =>
    match j.segment, memberOf s j.window j.target with
    | some g, some m =>
      enqueue j.target .copy .write (chunkAddr m.base g c) Config.chunkBytes (j.chunkData c) (.chunk j.number c) s
    | _, _ => s
  | none => s

/-- An error-free beat of a chunk read; the last one completes the read and its write is placed (R113). -/
def chunkBeat (number : BitVec 8) (c : Nat) (data : List Byte) (last : Bool) (s : State) : State :=
  if inProcess s number c .reading then
    let s1 := modChunk c (fun k => { k with data := k.data ++ data }) s
    if last then placeChunkWrite c (modChunk c (fun k => { k with phase := .writing }) s1) else s1
  else s

/-- An acknowledged chunk write ends the chunk's process; the 256th ends the segment (R114, R115). -/
def ackChunk (number : BitVec 8) (c : Nat) (s : State) : State :=
  if inProcess s number c .writing then
    let s1 := (modJob (fun j => { j with chunks := j.chunks.filter fun k => k.index != c, chunksWritten := j.chunksWritten + 1 }) s).raiseWork
    if (runningJob s1).any (fun j => j.chunksWritten == Config.chunksPerSegment) then segmentEnd s1 else s1
  else s

/-- An error or timeout of a chunk read of the pass restarts the segment (R120). -/
def failChunkRead (number : BitVec 8) (c : Nat) (s : State) : State :=
  if inProcess s number c .reading then restartPass s else s

/-- An error or timeout of a chunk write of the pass, its report taken first, aborts the job with TARGET_ERROR (R122). -/
def failChunkWrite (number : BitVec 8) (c : Nat) (s : State) : State :=
  if inProcess s number c .writing then
    match runningJob s with
    | some j => demote j.window j.target .rebuildAborted .targetError s
    | none => s
  else s

/-! ## Starting (R105 to R107) -/

/-- The start checks of the head job: the cause of the first that fails (R106). -/
def startCheck (s : State) (j : Job) : Option JobCause :=
  if !isUp s j.target then some .targetDown
  else
    match memberOf s j.window j.target with
    | some m =>
      if m.state != some .stale then some .state
      else if (leadOf (s.win j.window)).isNone then some .noSource
      else if !fitsLeg (s.leg j.target) m.base (s.win j.window).size then some .capacity
      else none
    | none => some .state

/-- The mode a job runs in: FULL as queued, else FULL if the slot is WHOLE and STALE if not (R107 step 1). -/
def resolveMode (mode : JobMode) (whole : Bool) : JobMode := if mode == .full || whole then .full else .stale

/-- The slot has WHOLE set. -/
def isWhole (s : State) (w : WinIx) (l : LegIx) : Bool := (memberOf s w l).any (·.whole)

/-- The head job as it starts (R107 step 3). -/
def Job.started (j : Job) (mode : JobMode) (total : Nat) : Job :=
  { j with mode := mode, running := true, segmentsDone := 0, segmentsTotal := some total }

/-- The head job starts (R107, R35). -/
def startJob (j : Job) (s : State) : State :=
  let mode := resolveMode j.mode (isWhole s j.window j.target)
  let total := if mode == .full then (s.win j.window).size else (staleList s j.window j.target).length
  let s1 := if mode == .full then makeWhole j.window j.target s else s
  let s2 := (modMember j.window j.target (fun m => { m with state := some .rebuilding }) s1).raise
  let s3 := post (.jobStarted j.window j.target mode j.number) { s2 with jobs := j.started mode total :: s2.jobs.tail }
  if mode == .stale && total == 0 then completeJob s3 else segmentStart s3

/-- Start attempts on successive heads while the engine is IDLE and no datapath reset is in progress (R105, R106); at most `n`. -/
def startHeads : Nat → State → State
  | 0, s => s
  | n + 1, s =>
    match s.jobs with
    | [] => s
    | j :: js =>
      if j.running || inReset s then s
      else
        match startCheck s j with
        | some c => startHeads n (post (.jobEnded j.window j.target c j.number) { s with jobs := js })
        | none => startHeads n (startJob j s)

/-- A start attempt, and those on the next heads that follow a removal or a completion (R105). -/
def startAttempt (s : State) : State := startHeads s.jobs.length s

end Sys2Proof.Machine
end

