-- ==== Sys2Proof/Machine/LinkPort.lean ====
section
/-! DEFINITION. Request link port: presentation of the head, its tests and outcomes, and the intake of requests from the link
(R153 to R157, R161, R162). -/

namespace Sys2Proof.Machine

/-- The head is settled: absent, OPEN, no stall cause (R153). -/
def settle (s : State) : State := { s with link := { s.link with head := none, accept := .opened, cause := .none } }

/-- A presentation that ends in a stall (R153). -/
def stall (c : StallCause) (s : State) : State := { s with link := { s.link with accept := .stalled, cause := c } }

/-- What is due under the tag of a request that is looked up: a write answer, or its beats (R152, R156). -/
def dueFor (r : Request) : Due :=
  match r.kind with
  | .write => .writeAnswer
  | .read => .beats (beatsOf r.addr.toNat r.length)

/-- The FAULT answer of a request: one write answer, or FAULT on every beat (R3, R156). -/
def faultItems (r : Request) : List AnswerItem :=
  match r.kind with
  | .write => [.write r.tag .fault]
  | .read => faultBeats r.tag 0 (beatsOf r.addr.toNat r.length)

/-- The head is answered FAULT at acceptance (R3, R6, R46, R68, R156). -/
def faultHead (r : Request) (s : State) : State := pushAnswers (faultItems r) (admitTag r.tag (dueFor r) (settle s))

/-- A malformed head is rejected (R154). -/
def rejectHead (r : Request) (s : State) : State := pushAnswer (.reject r.tag r.kind) (admitTag r.tag .reject (settle s))

/-- The head is handed to a tracker: its tag enters the set with the whole answer due (R156). -/
def handOver (r : Request) (s : State) : State := admitTag r.tag (dueFor r) (settle s)

/-- A head for an ENABLED window (R46 to R48, R68). -/
def routeEnabled (w : WinIx) (r : Request) (s : State) : State :=
  if isLost (s.win w) then faultHead r s
  else
    match r.kind with
    | .write =>
      match writeStall s w (segmentOf (s.win w) r.addr.toNat) with
      | some c => stall c s
      | none => acceptWrite w r (handOver r s)
    | .read =>
      if Config.readTrackerSize ≤ s.reads.length then stall .readTrackerFull s else acceptRead w r (handOver r s)

/-- The stall test of a pass-through write (R63). -/
def passWriteStall (s : State) (l : LegIx) : Option StallCause :=
  if Config.writeTrackerSize ≤ s.writes.length then some .trackerFull
  else if !canEnter s l .direct then some .directFull
  else none

/-- A head for the pass leg, which is UP (R63, R85). -/
def routePass (l : LegIx) (r : Request) (s : State) : State :=
  match r.kind with
  | .write =>
    match passWriteStall s l with
    | some c => stall c s
    | none => acceptPassWrite l r (handOver r s)
  | .read =>
    if Config.readTrackerSize ≤ s.reads.length then stall .readTrackerFull s else acceptPassRead l r (handOver r s)

/-- Lookup of the head and its route (R3, R6, R156). -/
def route (r : Request) (s : State) : State :=
  match lookupWindow s r.addr.toNat with
  | some w => if (s.win w).state == .draining then faultHead r s else routeEnabled w r s
  | none =>
    match s.passLeg with
    | some l => if isUp s l then routePass l r s else faultHead r s
    | none => faultHead r s

/-- The port holds the head unpresented (R153 test 1, R161). -/
def holdHead (s : State) : State := { s with link := { s.link with accept := .resetting, cause := .resetting } }

/-- A presentation of the head: the tests of R153 in order. -/
def present (s : State) : State :=
  match s.link.head with
  | some r =>
    if inReset s then holdHead s
    else if tagInUse s r.tag then stall .tagBusy s
    else if isMalformed r then rejectHead r s
    else route r s
  | none => s

/-- The port may take a request from the link: no head, and RESET not asserted (R150, R163). -/
def mayTake (s : State) : Bool := s.link.head.isNone && !s.resetAsserted

/-- The next request that waits on the link becomes the head and is presented (R150, R153, R161). -/
def takeNext (s : State) : State :=
  match s.link.waiting with
  | [] => s
  | r :: rs => present { s with link := { s.link with head := some r, waiting := rs } }

/-- A STALLED head is presented again (R157). -/
def retryHead (s : State) : State := if s.link.accept == .stalled then present s else s

/-- A STALLED head is presented again if an event of R157 has been noted. -/
def retryIfDue (s : State) : State :=
  if s.notice.head then retryHead { s with notice := { s.notice with head := false } } else s

/-- A tag record counts down by one item; it leaves the set with its last (R155, R158). -/
def countDown (t : Tag) (rs : List TagRecord) : List TagRecord :=
  rs.filterMap fun r =>
    if r.tag == t then
      match r.due with
      | .beats (n + 2) => some { r with due := .beats (n + 1) }
      | .beats _ => none
      | .writeAnswer => none
      | .reject => none
    else some r

/-- The tag an item is due under. -/
def AnswerItem.tag : AnswerItem → Tag
  | .write t _ => t
  | .beat t _ _ _ => t
  | .reject t _ => t

/-- The requester takes the head answer item (R158); a tag that leaves the set with it retries the head (R155, R157). -/
def takeAnswer (s : State) : State :=
  match s.link.answers with
  | a :: rest =>
    let s1 := { s with link := { s.link with answers := rest, tags := countDown a.tag s.link.tags } }
    if (countDown a.tag s.link.tags).length < s.link.tags.length then s1.raiseHead else s1.raiseWork
  | [] => s

end Sys2Proof.Machine
end

