-- ==== Sys2Proof/Machine/React.lean ====
section
/-! DEFINITION. The reactions that other blocks owe a change, taken within the step that makes it (R56, R76, R105, R108, R111,
R112, R135, R157, R16, R17, R162, R187; log entries 3 and 4). -/

namespace Sys2Proof.Machine

/-! ## Drain completion (R16, R17) -/

/-- A slot cleared to unbound (R17 step 2). -/
def Member.unbound (m : Member) : Member := { m with state := none, whole := false, serial := none }

/-- A drain completes (R17). -/
def completeDrain (w : WinIx) (s : State) : State :=
  State.raise (post (.windowDisabled w)
    { modWin w (fun x => { x with state := .disabled, members := x.members.map Member.unbound, rotate := 0 }) s with
      store := s.store.filter fun e => e.window != w })

/-- The drain test: a DRAINING window with no outstanding work becomes DISABLED (R16, R17). -/
def testDrain (w : WinIx) (s : State) : State :=
  if (s.win w).state == .draining && !outstanding s w then completeDrain w s else s

/-- The drain tests of all windows, in ascending index. -/
def testDrains (s : State) : State := allWindows.foldl (fun s w => testDrain w s) s

/-! ## End of a datapath reset (R162, R187) -/

/-- Reset progress NONE and acceptance OPEN. -/
def reopen (s : State) : State :=
  { s with port := { s.port with progress := .none }, link := { s.link with accept := .opened, cause := .none } }

/-- The link is clear: RESET_DONE, progress NONE, acceptance opens and a held head is presented; the start attempt follows as a
reaction (R187). -/
def finishReset (s : State) : State :=
  if s.port.progress == .clearing && linkClear s then (present (reopen (post .resetDone s))).raiseWork else s

/-! ## Rounds -/

/-- One round of reactions: a paused release resumes and the head is presented again, each if it is due; WAITING reads are reconsidered,
the source is taken again, chunk reads are placed, a start attempt is made, drains are tested, a clear link ends a datapath reset. -/
def reactRound (s : State) : State :=
  finishReset (testDrains (startAttempt (placeChunkReads (retakeSource (reconsider (retryIfDue (resumeIfDue s)))))))

/-- Something is due to be told. -/
def Notice.any (n : Notice) : Bool := n.work || n.head || n.release

/-- Rounds of reactions while a change is due to be told; at most `n`. -/
def reactUpTo : Nat → State → State
  | 0, s => s
  | n + 1, s => if s.notice.any then reactUpTo n (reactRound { s with notice := { s.notice with work := false } }) else s

/-- The requests that wait on the link are taken one at a time while the port has no head: each is presented, and what its presentation
brings about is taken, before the next is (R150, R153); at most `n`. -/
def intake : Nat → State → State
  | 0, s => s
  | n + 1, s => if mayTake s then intake n (reactUpTo 64 (takeNext s)) else s

/-- The reactions to a step, and the requests that they let in. What is not reached in 64 rounds stays due for the next step. -/
def react (s : State) : State := intake (reactUpTo 64 s).link.waiting.length (reactUpTo 64 s)

end Sys2Proof.Machine
end

