-- ==== Sys2Proof/Machine/LegPorts.lean ====
section
/-! DEFINITION. Leg ports: leg states and identity (R128 to R134), sending (R137 to R139), responses and timers (R141 to R145),
leaving UP (R146). -/

namespace Sys2Proof.Machine

/-! ## State changes (R131, R132, R146) -/

/-- A change of leg state, with its LEG_CHANGE record (R131). -/
def setLegState (l : LegIx) (new : LegState) (cause : LegCause) (s : State) : State :=
  (post (.legChange l cause (s.leg l).state new) (modLeg l (fun p => { p with state := new }) s)).raise

/-- The leg enters IDENTIFYING: the identity request is sent and the identity timer started (R132). -/
def enterIdentifying (l : LegIx) (cause : LegCause) (s : State) : State :=
  modLeg l (fun p => { p with identityTimer := some p.timeout, sent := some .identityRequest })
    (setLegState l .identifying cause s)

/-- The identity exchange is over or abandoned: its timer stops (R128, R132, R133). -/
def stopIdentity (l : LegIx) (s : State) : State := modLeg l (fun p => { p with identityTimer := none }) s

/-- LIVE entries are orphaned and the three queues emptied (R146 parts 2 and 3, R148). -/
def LegPort.abandonAll (p : LegPort) : LegPort :=
  { p with inflight := p.inflight.map Flight.orphan, direct := [], lag := [], copy := [] }

/-- The engine's source leg has left UP: the segment restarts (R121). -/
def loseSource (l : LegIx) (s : State) : State :=
  if (runningJob s).any (fun j => j.source == some l) then restartPass s else s

/-- A leg leaves UP (R146): its record, its in-flight table and queues, the reads and chunks that fail, the demotions of its
slots and the clearing of its pass-through writes. The model's choice (log entry 23): the last four are taken in this order. -/
def leaveUp (l : LegIx) (new : LegState) (cause : LegCause) (s : State) : State :=
  (clearPassLeg l (demoteLeg l (loseSource l (failReadsOn l
    (modLeg l LegPort.abandonAll (setLegState l new cause s)))))).raise

/-- A leg that is UP is faulted (R141, R143, R145). -/
def faultLeg (l : LegIx) (cause : LegCause) (s : State) : State :=
  if isUp s l then leaveUp l .faulted cause s else s

/-! ## Identity exchange (R132, R133) -/

/-- An identity answer is well formed (R132). -/
def identityRecord : IdentityAnswer → Option Identity
  | .error => none
  | .record v c r => if 1 ≤ c && c ≤ Config.maxCapacity then some { serial := v, capacity := c, revision := r } else none

/-- A well-formed identity answer (R132): record, count, UP, and the membership unit's visits. -/
def identified (l : LegIx) (i : Identity) (s : State) : State :=
  visitSlots l (setLegState l .up .identified
    (modLeg l (fun p => { p with identityTimer := none, identity := some i, failures := 0 }) s))

/-- An identity answer, taken whole (R132, R133). -/
def takeIdentity (l : LegIx) (a : IdentityAnswer) (s : State) : State :=
  if (s.leg l).state == .identifying then
    match identityRecord a with
    | some i => identified l i s
    | none => setLegState l .faulted .identityError (stopIdentity l s)
  else count l .stray s

/-! ## Sending (R137 to R139) -/

/-- The queue an arbiter position belongs to (R138). -/
def turnQueue (pos : Fin 8) : QueueName := if pos.val < 4 then .direct else if pos.val < 6 then .lag else .copy

/-- The first position from the arbiter's own whose queue holds a request (R138). -/
def LegPort.turn (p : LegPort) : Option (Fin 8) :=
  ((List.range 8).map fun k => p.arbiter + Fin.ofNat 8 k).find? fun pos => !(p.queue (turnQueue pos)).isEmpty

/-- A queue other than `q` holds a request older than `r` that overlaps it (R139). -/
def LegPort.blocks (p : LegPort) (q : QueueName) (r : LegRequest) (o : QueueName) : Bool :=
  o != q && (p.queue o).any fun x => decide (x.age < r.age) && overlaps r.addr r.length x.addr x.length

/-- The queue whose head is sent: a candidate overlapped by an older request of another queue gives way to that queue's head
(R139). Each substitution is older, so two suffice. Of two such queues the first in the order direct, lag, copy is taken (log
entry 18). -/
def LegPort.substitute (p : LegPort) : Nat → QueueName → QueueName
  | 0, q => q
  | n + 1, q =>
    match (p.queue q).head? with
    | some r =>
      match [QueueName.direct, .lag, .copy].find? (p.blocks q r) with
      | some o => p.substitute n o
      | none => q
    | none => q

/-- A request may be sent: UP, room in the table, and the next number free (R137). -/
def LegPort.maySend (p : LegPort) : Bool :=
  p.state == .up && decide (p.inflight.length < Config.inflightSize) && (p.flight p.nextNumber).isNone

/-- The entry made for a request as it is sent (R137 step 3, R140). -/
def LegPort.newFlight (p : LegPort) (r : LegRequest) : Flight :=
  { number := p.nextNumber, kind := r.kind, length := r.length, beatsExpected := if r.kind == .read then some (beatsOf r.addr r.length) else none,
    beatsTaken := 0, owner := some r.owner, timerRunning := true, timeout := p.timeout, condition := .live, counted := false }

/-- Request `r`, at the head of queue `q`, is sent, using turn `pos` (R137, R138). -/
def LegPort.send (p : LegPort) (pos : Fin 8) (q : QueueName) (r : LegRequest) : LegPort :=
  { p.setQueue q (p.queue q).tail with
    inflight := p.inflight ++ [p.newFlight r]
    nextNumber := p.nextNumber + 1
    arbiter := pos + 1
    spent := p.spent.filter (· != p.nextNumber)
    sent := some (.request p.nextNumber r) }

/-- A leg port sends one request if it may (R137). -/
def sendOne (l : LegIx) (s : State) : State :=
  if (s.leg l).maySend then
    match (s.leg l).turn with
    | some pos =>
      let q := (s.leg l).substitute 2 (turnQueue pos)
      match ((s.leg l).queue q).head? with
      | some r => (modLeg l (fun p => p.send pos q r) s).raise
      | none => s
    | none => s
  else s

/-! ## Failures handed to owners (R60, R64, R79, R80, R120, R122) -/

/-- A read failure or timeout is reported to its owner. -/
def ownerReadFailed (l : LegIx) (o : Option Owner) (s : State) : State :=
  match o with
  | some (.read r) => failRead r l s
  | some (.chunk j c) => failChunkRead j c s
  | some (.write _ _) => s
  | none => s

/-- A write failure of a foreground write is reported to its owner. -/
def ownerWriteFailed (l : LegIx) (o : Option Owner) (s : State) : State :=
  match o with
  | some (.write r _) => failWrite r l s
  | some (.chunk _ _) => s
  | some (.read _) => s
  | none => s

/-- A free choice of the spec is taken: the counter that names it moves on. -/
def useChoice (s : State) : State := { s with choices := s.choices + 1 }

/-- A failed write's owner is told and the leg is faulted. For a chunk write of the pass the engine may take the report before the
departure or after it, a free choice (R122, log entry 6); after it, the report finds no chunk and is discarded. The model's choice (log
entry 43): the owner of a failed foreground write is told before the leg's departure, where R141 and R143 leave the order open. -/
def writeFailed (l : LegIx) (cause : LegCause) (o : Option Owner) (s : State) : State :=
  match o with
  | some (.chunk j c) =>
    if inProcess s j c .writing then
      if Config.reportFirst s.choices then faultLeg l cause (failChunkWrite j c (useChoice s))
      else faultLeg l cause (useChoice s)
    else faultLeg l cause s
  | some (.write _ _) => faultLeg l cause (ownerWriteFailed l o s)
  | some (.read _) => faultLeg l cause s
  | none => faultLeg l cause s

/-- The leg is faulted on the fourth consecutive read failure (R145). -/
def checkFailures (l : LegIx) (s : State) : State :=
  if Config.readFailureLimit ≤ (s.leg l).failures then faultLeg l .readFailures s else s

/-- One read failure more in a row (R145). -/
def bumpFailures (l : LegIx) (s : State) : State :=
  modLeg l (fun p => { p with failures := min Config.readFailureLimit (p.failures + 1) }) s

/-! ## Responses (R141, R142, R144) -/

/-- A late or stray response is counted once (R144). -/
def countOnce (l : LegIx) (k : Counter) (f : Flight) (s : State) : State :=
  if f.counted then s
  else count l k (modLeg l (fun p => p.modFlight f.number fun x => { x with counted := true }) s)

/-- The entry holding a number is freed. -/
def freeEntry (l : LegIx) (n : SeqNo) (s : State) : State := modLeg l (fun p => p.freeFlight n) s

/-- An OK acknowledgement is handed to the write's owner (R58, R64, R114). -/
def ownerAcked (l : LegIx) (o : Option Owner) (s : State) : State :=
  match o with
  | some (.write r _) => ackWrite r l s
  | some (.chunk j c) => ackChunk j c s
  | some (.read _) => s
  | none => s

/-- A write response against a write entry (R141, R144). -/
def writeEntryResponse (l : LegIx) (f : Flight) (ok : Bool) (s : State) : State :=
  match f.condition, ok with
  | .live, true => ownerAcked l f.owner (freeEntry l f.number s)
  | .live, false => writeFailed l .writeError f.owner (count l .writeFailures (freeEntry l f.number s))
  | .orphaned, true => freeEntry l f.number (countOnce l .stray f s)
  | .orphaned, false => faultLeg l .writeError (count l .writeFailures (freeEntry l f.number s))
  | .expired, _ => freeEntry l f.number (countOnce l .late f s)
  | .closing, _ => freeEntry l f.number s

/-- The beat is the last the entry expects. -/
def Flight.lastBeat (f : Flight) : Bool := f.beatsExpected.all fun n => decide (n ≤ f.beatsTaken + 1)

/-- A beat of an entry that goes on is noted: one beat more taken; the last one frees the entry. -/
def noteBeat (l : LegIx) (f : Flight) (s : State) : State :=
  if f.lastBeat then freeEntry l f.number s
  else modLeg l (fun p => p.modFlight f.number fun x => { x with beatsTaken := x.beatsTaken + 1 }) s

/-- An error beat is noted: the entry is freed with its last beat and becomes CLOSING before it (R142). -/
def noteErrorBeat (l : LegIx) (f : Flight) (s : State) : State :=
  if f.lastBeat then freeEntry l f.number s
  else modLeg l (fun p => p.modFlight f.number fun x =>
    { x with beatsTaken := x.beatsTaken + 1, condition := .closing, owner := none, counted := true }) s

/-- A beat without error is handed to the read's owner (R78, R113). -/
def ownerBeat (o : Option Owner) (data : List Byte) (last : Bool) (s : State) : State :=
  match o with
  | some (.read r) => deliverBeat r data s
  | some (.chunk j c) => chunkBeat j c data last s
  | some (.write _ _) => s
  | none => s

/-- A successful read clears the consecutive read-failure count (R142). -/
def readSucceeded (l : LegIx) (f : Flight) (s : State) : State :=
  if f.lastBeat then modLeg l (fun p => { p with failures := 0 }) s else s

/-- A beat, with its data or an error, against a read entry (R142, R144). -/
def readEntryBeat (l : LegIx) (f : Flight) (b : BeatAnswer) (s : State) : State :=
  match f.condition, b with
  | .live, .ok d => ownerBeat f.owner d f.lastBeat (readSucceeded l f (noteBeat l f s))
  | .live, .error =>
    checkFailures l (ownerReadFailed l f.owner (bumpFailures l (count l .readFailures (noteErrorBeat l f s))))
  | .orphaned, .ok _ => noteBeat l f (countOnce l .stray f s)
  | .orphaned, .error => checkFailures l (bumpFailures l (count l .readFailures (noteErrorBeat l f s)))
  | .expired, _ => noteBeat l f (countOnce l .late f s)
  | .closing, _ => noteBeat l f s

/-- A write response, taken whole (R141, R144). For a read entry it is an error of that entry (R141; log entry 14). -/
def takeWriteResponse (l : LegIx) (n : SeqNo) (ok : Bool) (s : State) : State :=
  if isUp s l then
    match (s.leg l).flight n with
    | some f => if f.kind == .write then writeEntryResponse l f ok s else readEntryBeat l f .error s
    | none => count l .stray s
  else s

/-- One beat of a read response (R142, R144). For a write entry it is an error of that entry (R141; log entry 14); where no entry
holds the number, the response is counted once (log entry 13). The model's choice (log entry 40): a beat beyond those expected, of
which R142 says that it is taken as an error beat, finds the entry freed with its last expected beat, and is such a response. -/
def takeReadBeat (l : LegIx) (n : SeqNo) (first : Bool) (b : BeatAnswer) (s : State) : State :=
  if isUp s l then
    match (s.leg l).flight n with
    | some f => if f.kind == .read then readEntryBeat l f b s else writeEntryResponse l f false s
    | none =>
      if first || !(s.leg l).spent.contains n then
        count l .stray (modLeg l (fun p => { p with spent := p.spent.filter (· != n) ++ [n] }) s)
      else s
  else s

/-! ## Entry timers (R143) -/

/-- The entry becomes EXPIRED and its timer is restarted for the grace period (R143). -/
def expireEntry (l : LegIx) (n : SeqNo) (s : State) : State :=
  modLeg l (fun p => p.modFlight n fun x => { x with condition := .expired, owner := none, timerRunning := true }) s

/-- The timer of an awaited or orphaned entry runs out on a leg that is UP (R143). -/
def timedOut (l : LegIx) (f : Flight) (s : State) : State :=
  let s1 := expireEntry l f.number (count l .timeouts s)
  let owner := if f.condition == .live then f.owner else none
  match f.kind with
  | .write => writeFailed l .writeTimeout owner s1
  | .read => checkFailures l (ownerReadFailed l owner (bumpFailures l s1))

/-- The timer of an in-flight entry runs out (R143). -/
def expire (l : LegIx) (n : SeqNo) (s : State) : State :=
  match (s.leg l).flight n with
  | some f =>
    match f.condition with
    | .closing => freeEntry l n s
    | .expired => freeEntry l n s
    | .live => if isUp s l then timedOut l f s else expireEntry l n s
    | .orphaned => if isUp s l then timedOut l f s else expireEntry l n s
  | none => s

end Sys2Proof.Machine
end

