-- ==== Sys2Proof/Machine/Reply.lean ====
section
/-! DEFINITION. What carrying out a management command gives: the state after it, a status, and results (R181). -/

namespace Sys2Proof.Machine

/-- A command carried out. -/
structure Carried where
  state : State
  status : Status
  results : List Byte
  deriving DecidableEq, Repr

/-- A refusal: the state as it was, no results (R181). -/
def refuse (st : Status) (s : State) : Carried := { state := s, status := st, results := [] }

/-- DONE with results and no change of state. -/
def report (rs : List Byte) (s : State) : Carried := { state := s, status := .done, results := rs }

/-- A command that has changed the state: its status, and the reactions of other blocks in the same step. -/
def finish (st : Status) (s : State) : Carried := { state := react s, status := st, results := [] }

end Sys2Proof.Machine
end

