-- ==== Sys2Proof/Machine/Windows.lean ====
section
/-! DEFINITION. The window commands: WINDOW_SET, WINDOW_GET, WINDOW_ENABLE, WINDOW_DISABLE, WINDOW_RESEED, PASS_SET
(R7 to R15, R19). -/

namespace Sys2Proof.Machine

/-! ## WINDOW_SET (R8, R9) -/

/-- A multiple of 64 KiB. -/
def aligned (a : Nat) : Bool := a % Config.segmentBytes == 0

/-- No leg is named twice. -/
def distinctLegs : List (LegIx × Nat) → Bool
  | [] => true
  | p :: ps => !(ps.any fun q => q.1 == p.1) && distinctLegs ps

/-- A member of a DISABLED window: unbound, no state (R9). -/
def freshMember (p : LegIx × Nat) : Member := { leg := p.1, base := p.2, state := none, whole := false, serial := none }

/-- The configured fields that WINDOW_SET's arguments carry, if every ARG condition of R8 after STATE passes. -/
def configured (a : WindowArgs) : Option Window :=
  if aligned a.base && a.members.all (fun p => aligned p.2) && decide (1 ≤ a.size) && decide (a.size ≤ Config.maxWindowSize)
    && decide (a.base + a.size * Config.segmentBytes ≤ Config.addressEnd) && !a.members.isEmpty
    && decide (a.members.length ≤ Config.maxMembers) then
    match legPairs a.members, policyArg a.policy with
    | some ps, some p =>
      if distinctLegs ps then
        some { state := .disabled, base := a.base, size := a.size, writePolicy := p.write, readPolicy := p.read,
               lagPolicy := p.lag, autoRebuild := p.auto, members := ps.map freshMember, rotate := 0 }
      else none
    | _, _ => none
  else none

/-- WINDOW_SET (R8, R9). The member list changes, which presents a STALLED head again (R157). -/
def cmdWindowSet (args : List Byte) (s : State) : Carried :=
  if inReset s then refuse .busy s
  else
    match windowArgs args with
    | some a =>
      match winArg a.window with
      | some w =>
        if (s.win w).state != .disabled then refuse .state s
        else
          match configured a with
          | some x => finish .done (s.setWin w x).raiseHead
          | none => refuse .arg s
      | none => refuse .arg s
    | none => refuse .arg s

/-! ## WINDOW_GET (R10) -/

/-- WINDOW_GET (R10). -/
def cmdWindowGet (args : List Byte) (s : State) : Carried :=
  match args with
  | [w] =>
    match winArg w with
    | some w => report (windowBytes w (s.win w)) s
    | none => refuse .arg s
  | _ => refuse .arg s

/-! ## WINDOW_ENABLE (R11 to R14) -/

/-- The member may be seeded: its leg is UP and its extent fits (R12). -/
def seedable (s : State) (x : Window) (m : Member) : Bool := isUp s m.leg && fitsLeg (s.leg m.leg) m.base x.size

/-- The members a seed considers (R12). -/
def considered (x : Window) : Seed → List Member
  | .all => x.members
  | .leg l => x.members.filter fun m => m.leg == l

/-- The status that refuses a seeding: SEED if no considered member's leg is UP, CAPACITY if none that is UP fits (R11, R12). -/
def seedRefusal (s : State) (x : Window) (seed : Seed) : Option Status :=
  if !(considered x seed).any (fun m => isUp s m.leg) then some .seed
  else if !(considered x seed).any (seedable s x) then some .capacity
  else none

/-- The slot of a member at enable: CURRENT if seeded, else STALE and WHOLE (R13 steps 2 and 3). -/
def seededMember (s : State) (x : Window) (seed : Seed) (m : Member) : Member :=
  if (considered x seed).any (fun k => k.leg == m.leg) && seedable s x m then
    { m with state := some .current, whole := false, serial := serialOf s m.leg }
  else { m with state := some .stale, whole := true, serial := none }

/-- The capacity in a leg's identity record, in segments; 0 when there is none. -/
def capacityOf (s : State) (l : LegIx) : Nat := ((s.leg l).identity.map (·.capacity)).getD 0

/-- CAPACITY_MISMATCH for each considered member whose leg is UP but whose extent does not fit (R13 step 3). The model's
choice (log entry 21): with a named seed no other member gets the record. -/
def postMismatches (w : WinIx) (seed : Seed) (s : State) : State :=
  ((considered (s.win w) seed).filter fun m => isUp s m.leg && !seedable s (s.win w) m).foldl
    (fun s m => post (.capacityMismatch w m.leg (capacityOf s m.leg)) s) s

/-- MEMBER_CHANGE with cause SEED for each member, in list order (R13 step 5). -/
def postSeeds (w : WinIx) (s : State) : State :=
  (s.win w).members.foldl (fun s m => post (.memberChange w m.leg .seed m.state) s) s

/-- The window becomes ENABLED with its slots seeded (R13 steps 1 to 3). -/
def enableWindow (w : WinIx) (seed : Seed) (s : State) : State :=
  modWin w (fun x => { x with state := .enabled, rotate := 0, members := x.members.map (seededMember s x seed) }) s

/-- The effects of a WINDOW_ENABLE answered DONE (R13, R14). -/
def enabled (w : WinIx) (seed : Seed) (s : State) : State :=
  let s1 := postHealth w none (postSeeds w (postMismatches w seed (enableWindow w seed s)))
  (if (s1.win w).autoRebuild then queueAutoJobs w s1 else s1).raise

/-- WINDOW_ENABLE (R11). -/
def cmdWindowEnable (args : List Byte) (s : State) : Carried :=
  if inReset s then refuse .busy s
  else
    match args with
    | [wb, sb] =>
      match winArg wb, seedArg sb with
      | some w, some seed =>
        let x := s.win w
        if x.state != .disabled then refuse .state s
        else if rangeTaken s w x.base x.bytes then refuse .overlap s
        else if x.members.any (fun m => extentTaken s (some w) m.leg m.base x.bytes) then refuse .overlap s
        else
          match seedRefusal s x seed with
          | some st => refuse st s
          | none => finish .done (enabled w seed s)
      | _, _ => refuse .arg s
    | _ => refuse .arg s

/-! ## WINDOW_DISABLE (R15) -/

/-- Queued jobs are removed and JOB_ENDED posted for each, in queue order. -/
def postEnded (cause : JobCause) (js : List Job) (s : State) : State :=
  js.foldl (fun s j => post (.jobEnded j.window j.target cause j.number) s) s

/-- Every job of a window leaves the queue, each with JOB_ENDED DRAINING (R15 step 3). -/
def removeWindowJobs (w : WinIx) (s : State) : State :=
  postEnded .draining (s.jobs.filter fun j => j.window == w) { s with jobs := s.jobs.filter fun j => j.window != w }

/-- The running job of a window is aborted with cause DRAINING (R15 step 2). -/
def abortForDrain (w : WinIx) (s : State) : State :=
  match runningJob s with
  | some j => if j.window == w then demote w j.target .rebuildAborted .draining s else s
  | none => s

/-- Steps 1 to 3 of R15. -/
def startDrain (w : WinIx) (s : State) : State :=
  removeWindowJobs w (abortForDrain w (modWin w (fun x => { x with state := .draining }) s).raise)

/-- WINDOW_DISABLE (R15). -/
def cmdWindowDisable (args : List Byte) (s : State) : Carried :=
  if inReset s then refuse .busy s
  else
    match args with
    | [wb] =>
      match winArg wb with
      | some w =>
        match (s.win w).state with
        | .disabled => refuse .state s
        | .draining => refuse .busy s
        | .enabled =>
          let s1 := startDrain w s
          if outstanding s1 w then finish .accepted s1 else finish .done (completeDrain w s1)
      | none => refuse .arg s
    | _ => refuse .arg s

/-! ## WINDOW_RESEED (R19) -/

/-- The effects of a WINDOW_RESEED answered DONE (R19). -/
def reseed (w : WinIx) (l : LegIx) (s : State) : State :=
  let s1 := makeCurrent w l s
  let s2 := ((s1.win w).members.filter fun m => m.leg != l).foldl (fun s m => makeWhole w m.leg s) s1
  let s3 := postHealth w (some .lost) (post (.memberChange w l .reseed (some .current)) s2)
  if (s3.win w).autoRebuild then queueAutoJobs w s3 else s3

/-- WINDOW_RESEED (R19). -/
def cmdWindowReseed (args : List Byte) (s : State) : Carried :=
  if inReset s then refuse .busy s
  else
    match args with
    | [wb, lb] =>
      match winArg wb, legArg lb with
      | some w, some l =>
        if (s.win w).state != .enabled || !isLost (s.win w) then refuse .state s
        else
          match memberOf s w l with
          | some m =>
            if !isUp s l then refuse .seed s
            else if !fitsLeg (s.leg l) m.base (s.win w).size then refuse .capacity s
            else finish .done (reseed w l s)
          | none => refuse .arg s
      | _, _ => refuse .arg s
    | _ => refuse .arg s

/-! ## PASS_SET (R7) -/

/-- PASS_SET (R7). -/
def cmdPassSet (args : List Byte) (s : State) : Carried :=
  if inReset s then refuse .busy s
  else
    match args with
    | [b] =>
      match passArg b with
      | some p => finish .done (State.raiseHead { s with passLeg := p })
      | none => refuse .arg s
    | _ => refuse .arg s

end Sys2Proof.Machine
end

