-- ==== Sys2Proof/Machine/Members.lean ====
section
/-! DEFINITION. The member commands: MEMBER_ADD, MEMBER_REMOVE, MEMBER_GET (R25 to R29, R43). -/

namespace Sys2Proof.Machine

/-! ## MEMBER_ADD (R25, R26) -/

/-- A member just added: STALE, WHOLE, unbound (R26). -/
def addedMember (l : LegIx) (base : Nat) : Member :=
  { leg := l, base := base, state := some .stale, whole := true, serial := none }

/-- What follows a MEMBER_ADD, by the leg's state, the fit and auto-rebuild (R26 points 1 to 4). -/
def afterAdd (w : WinIx) (l : LegIx) (base : Nat) (s : State) : State :=
  if isUp s l then
    if fitsLeg (s.leg l) base (s.win w).size then (if (s.win w).autoRebuild then queueAuto w l s else s)
    else post (.capacityMismatch w l (capacityOf s l)) s
  else s

/-- The effects of a MEMBER_ADD answered DONE (R26). -/
def addMember (w : WinIx) (l : LegIx) (base : Nat) (s : State) : State :=
  (afterAdd w l base (post (.memberChange w l .added (some .stale))
    (modWin w (fun x => { x with members := x.members ++ [addedMember l base] }) s))).raise

/-- MEMBER_ADD (R25). -/
def cmdMemberAdd (args : List Byte) (s : State) : Carried :=
  if inReset s then refuse .busy s
  else
    match args with
    | wb :: lb :: bb =>
      match winArg wb, legArg lb with
      | some w, some l =>
        if bb.length != 6 || !aligned (leNat bb) then refuse .arg s
        else if (s.win w).state != .enabled then refuse .state s
        else if (memberOf s w l).isSome then refuse .arg s
        else if Config.maxMembers ≤ (s.win w).members.length then refuse .full s
        else if extentTaken s none l (leNat bb) (s.win w).bytes then refuse .overlap s
        else finish .done (addMember w l (leNat bb) s)
      | _, _ => refuse .arg s
    | _ => refuse .arg s

/-! ## MEMBER_REMOVE (R27 to R29) -/

/-- The removed leg leaves the owed and acked sets of every entry of the window, and its leg address goes with it (R28 step 1, R61, R4). -/
def dropLeg (w : WinIx) (l : LegIx) (s : State) : State :=
  { s with writes := s.writes.map fun e =>
      if e.window == some w then { e with owed := legErase l e.owed, acked := legErase l e.acked, legAddrs := withoutLeg l e.legAddrs }
      else e }

/-- Step 1 of R28: owed writes are cleared, and the entries that this empties are answered and retired. -/
def clearRemoved (w : WinIx) (l : LegIx) (s : State) : State :=
  decideAll (owingOnly l (owing s w l)) (dropLeg w l s)

/-- Step 4 of R28: a queued job for the slot is removed, by its slot (log entry 41), a running one aborted; JOB_ENDED with cause
REMOVED. -/
def removeSlotJob (w : WinIx) (l : LegIx) (s : State) : State :=
  match s.jobs.find? fun j => j.window == w && j.target == l with
  | some j =>
    post (.jobEnded w l .removed j.number)
      (if j.running then abortJob s else dropSlotJob w l s)
  | none => s

/-- Step 5 of R28: the member leaves the list and the rotate pointer is set to 0. -/
def closeList (w : WinIx) (l : LegIx) (s : State) : State :=
  modWin w (fun x => { x with members := x.members.filter fun m => m.leg != l, rotate := 0 }) s

/-- The running job is for the slot. -/
def isTarget (s : State) (w : WinIx) (l : LegIx) : Bool := (runningJob s).any fun j => j.window == w && j.target == l

/-- The effects of a MEMBER_REMOVE answered DONE (R28, R29, R121). The writes that an abort of the slot's job releases are issued after
step 5 and before step 6. -/
def removeMember (w : WinIx) (l : LegIx) (s : State) : State :=
  let s1 := closeList w l (removeSlotJob w l (freeSlot w l (discardWrites w l (clearRemoved w l s))))
  let s2 := if isTarget s w l then resumeRelease s1 else s1
  let s3 := postChange w (healthOf (s.win w)) (healthOf (s1.win w)) (post (.memberChange w l .removed none) s2)
  let s4 := if isSource s w l then restartPass s3 else s3
  (takeBackReads w l (dropReadAddr w l s4)).raise

/-- The status that refuses a MEMBER_REMOVE of a member of the list: the only member, or the only CURRENT one (R27). -/
def removeRefused (x : Window) (m : Member) : Bool :=
  x.members.length == 1 || (m.state == some .current && currentCount x == 1)

/-- MEMBER_REMOVE (R27). -/
def cmdMemberRemove (args : List Byte) (s : State) : Carried :=
  if inReset s then refuse .busy s
  else
    match args with
    | [wb, lb] =>
      match winArg wb, legArg lb with
      | some w, some l =>
        if (s.win w).state != .enabled then refuse .state s
        else
          match memberOf s w l with
          | some m => if removeRefused (s.win w) m then refuse .last s else finish .done (removeMember w l s)
          | none => refuse .arg s
      | _, _ => refuse .arg s
    | _ => refuse .arg s

/-! ## MEMBER_GET (R43) -/

/-- MEMBER_GET (R43). -/
def cmdMemberGet (args : List Byte) (s : State) : Carried :=
  match args with
  | [wb, lb] =>
    match winArg wb, legArg lb with
    | some w, some l =>
      match memberOf s w l with
      | some m => report (memberBytes s w m) s
      | none => refuse .arg s
    | _, _ => refuse .arg s
  | _ => refuse .arg s

end Sys2Proof.Machine
end

