-- ==== Sys2Proof/Machine/LegCommands.lean ====
section
/-! DEFINITION. The leg commands: LEG_ENABLE, LEG_DISABLE, LEG_GET, LEG_SET_TIMEOUT (R129, R130, R147, R149). -/

namespace Sys2Proof.Machine

/-- An OFF or FAULTED leg is enabled: IDENTIFYING if READY is high, else DOWN (R129). -/
def enableLeg (l : LegIx) (s : State) : State :=
  if (s.leg l).ready then enterIdentifying l .enabled s else setLegState l .down .enabled s

/-- LEG_ENABLE (R129). -/
def cmdLegEnable (args : List Byte) (s : State) : Carried :=
  if inReset s then refuse .busy s
  else
    match args with
    | [lb] =>
      match legArg lb with
      | some l =>
        if (s.leg l).state == .off || (s.leg l).state == .faulted then finish .done (enableLeg l s) else refuse .state s
      | none => refuse .arg s
    | _ => refuse .arg s

/-- The outcome of a LEG_DISABLE by leg state (R130). -/
def disableLeg (l : LegIx) (s : State) : State :=
  match (s.leg l).state with
  | .off => s
  | .down => setLegState l .off .disabled s
  | .faulted => setLegState l .off .disabled s
  | .identifying => setLegState l .off .disabled (stopIdentity l s)
  | .up => leaveUp l .off .disabled s

/-- LEG_DISABLE (R130). -/
def cmdLegDisable (args : List Byte) (s : State) : Carried :=
  if inReset s then refuse .busy s
  else
    match args with
    | [lb] =>
      match legArg lb with
      | some l => finish .done (disableLeg l s)
      | none => refuse .arg s
    | _ => refuse .arg s

/-- LEG_GET (R149). -/
def cmdLegGet (args : List Byte) (s : State) : Carried :=
  match args with
  | [lb] =>
    match legArg lb with
    | some l => report (legBytes (s.leg l)) s
    | none => refuse .arg s
  | _ => refuse .arg s

/-- LEG_SET_TIMEOUT (R147). -/
def cmdLegSetTimeout (args : List Byte) (s : State) : Carried :=
  if inReset s then refuse .busy s
  else
    match args with
    | [lb, lo, hi] =>
      match legArg lb with
      | some l =>
        if 1 ≤ leNat [lo, hi] && leNat [lo, hi] ≤ Config.maxTimeout then
          { state := modLeg l (fun p => { p with timeout := leNat [lo, hi] }) s, status := .done, results := [] }
        else refuse .arg s
      | none => refuse .arg s
    | _ => refuse .arg s

end Sys2Proof.Machine
end

