-- ==== Sys2Proof/Machine/Resync.lean ====
section
/-! DEFINITION. The rebuild commands: RESYNC_QUEUE, RESYNC_CANCEL, RESYNC_GET (R102 to R104). -/

namespace Sys2Proof.Machine

/-- The leg has a capacity on record and the extent ends above it (R102). -/
def exceedsRecord (p : LegPort) (base size : Nat) : Bool := p.identity.isSome && !fitsLeg p base size

/-- RESYNC_QUEUE (R102). -/
def cmdResyncQueue (args : List Byte) (s : State) : Carried :=
  if inReset s then refuse .busy s
  else
    match args with
    | [wb, lb, mb] =>
      match winArg wb, legArg lb, modeArg mb with
      | some w, some l, some mode =>
        if (s.win w).state != .enabled || isLost (s.win w) then refuse .state s
        else
          match memberOf s w l with
          | some m =>
            if hasJob s w l then refuse .duplicate s
            else if m.state != some .stale then refuse .state s
            else if Config.jobQueueSize ≤ s.jobs.length then refuse .full s
            else if exceedsRecord (s.leg l) m.base (s.win w).size then refuse .capacity s
            else { state := react (placeJob w l mode s), status := .done, results := [s.nextJob] }
          | none => refuse .arg s
      | _, _, _ => refuse .arg s
    | _ => refuse .arg s

/-- The job for the slot is cancelled (R103). A QUEUED one leaves by its slot, not by its number: after 256 queueings two jobs may share
a number, which R101 rules out (log entry 41). -/
def cancelJob (j : Job) (s : State) : State :=
  if j.running then demote j.window j.target .rebuildAborted .cancelled s
  else post (.jobEnded j.window j.target .cancelled j.number) (dropSlotJob j.window j.target s)

/-- RESYNC_CANCEL (R103). -/
def cmdResyncCancel (args : List Byte) (s : State) : Carried :=
  if inReset s then refuse .busy s
  else
    match args with
    | [wb, lb] =>
      match winArg wb, legArg lb with
      | some w, some l =>
        match s.jobs.find? fun j => j.window == w && j.target == l with
        | some j => finish .done (cancelJob j s)
        | none => refuse .none s
      | _, _ => refuse .arg s
    | _ => refuse .arg s

/-- The result of RESYNC_GET: engine state, number of jobs, the job records in queue order (R104, R191). -/
def resyncBytes (s : State) : List Byte :=
  [(engineState s).code, natByte s.jobs.length] ++ s.jobs.flatMap jobBytes

/-- RESYNC_GET (R104). -/
def cmdResyncGet (args : List Byte) (s : State) : Carried :=
  match args with
  | [] => report (resyncBytes s) s
  | _ :: _ => refuse .arg s

end Sys2Proof.Machine
end

