-- ==== Sys2Proof/Machine/StaleCommands.lean ====
section
/-! DEFINITION. The store queries: STALE_COUNT, STALE_LIST (R96, R97). -/

namespace Sys2Proof.Machine

/-- The result of STALE_COUNT: count, WHOLE, occupancy (R96, R182 note 2). -/
def staleCountBytes (s : State) (w : WinIx) (m : Member) : List Byte :=
  leBytes 2 (staleList s w m.leg).length ++ [boolByte m.whole] ++ leBytes 2 s.store.length

/-- STALE_COUNT (R96). -/
def cmdStaleCount (args : List Byte) (s : State) : Carried :=
  match args with
  | [wb, lb] =>
    match winArg wb, legArg lb with
    | some w, some l =>
      match memberOf s w l with
      | some m => report (staleCountBytes s w m) s
      | none => refuse .arg s
    | _, _ => refuse .arg s
  | _ => refuse .arg s

/-- The lowest stale segments of a slot at or above a start, at most 16 (R97). -/
def staleFrom (s : State) (w : WinIx) (l : LegIx) (start : Nat) : List Nat :=
  ((staleList s w l).filter fun g => decide (start ≤ g)).take Config.staleListMax

/-- The result of STALE_LIST: WHOLE, n, and n segment indices (R97, R182 note 2). -/
def staleListBytes (s : State) (w : WinIx) (m : Member) (start : Nat) : List Byte :=
  [boolByte m.whole, natByte (staleFrom s w m.leg start).length] ++ (staleFrom s w m.leg start).flatMap (leBytes 4)

/-- STALE_LIST (R97). -/
def cmdStaleList (args : List Byte) (s : State) : Carried :=
  match args with
  | [wb, lb, b0, b1, b2, b3] =>
    match winArg wb, legArg lb with
    | some w, some l =>
      match memberOf s w l with
      | some m =>
        if leNat [b0, b1, b2, b3] < Config.maxWindowSize then report (staleListBytes s w m (leNat [b0, b1, b2, b3])) s
        else refuse .arg s
      | none => refuse .arg s
    | _, _ => refuse .arg s
  | _ => refuse .arg s

end Sys2Proof.Machine
end

