-- ==== Sys2Proof/Machine/EventCommands.lean ====
section
/-! DEFINITION. The event and health commands: EVENT_POP, EVENT_CONFIG, HEALTH_READ (R168 to R170, R174). -/

namespace Sys2Proof.Machine

/-- The head record has left; a non-zero drop count is stored as an OVERRUN and cleared (R168, R169). -/
def EventUnit.pop (e : EventUnit) : EventUnit :=
  if e.drop == 0 then { e with queue := e.queue.tail }
  else { EventUnit.push { e with queue := e.queue.tail } (.overrun e.drop) with drop := 0 }

/-- EVENT_POP (R169). -/
def cmdEventPop (args : List Byte) (s : State) : Carried :=
  match args with
  | [] =>
    match s.events.queue.head? with
    | some r =>
      { state := { s with events := s.events.pop }, status := .done, results := eventBytes r s.events.pop.queue.length }
    | none => refuse .empty s
  | _ :: _ => refuse .arg s

/-- EVENT_CONFIG (R170). -/
def cmdEventConfig (args : List Byte) (s : State) : Carried :=
  match args with
  | [eb, lo, hi] =>
    match enableArg eb, maskArg lo hi with
    | some en, some m =>
      { state := { s with events := { s.events with alertEnable := en, mask := m } }, status := .done,
        results := boolByte en :: leBytes 2 m.toNat }
    | _, _ => refuse .arg s
  | _ => refuse .arg s

/-- HEALTH_READ (R174). -/
def cmdHealthRead (args : List Byte) (s : State) : Carried :=
  match args with
  | [lb] =>
    match legArg lb with
    | some l => { state := s.setCounters l Counters.zero, status := .done, results := counterBytes (s.counters l) }
    | none => refuse .arg s
  | _ => refuse .arg s

end Sys2Proof.Machine
end

