-- ==== Sys2Proof/Machine/Device.lean ====
section
/-! DEFINITION. The device commands: IDENT, STATUS_GET, DATAPATH_RESET (R183, R184, R186; R41, R42, R65, R86, R91, R125, R148,
R161). -/

namespace Sys2Proof.Machine

/-- IDENT (R183). -/
def cmdIdent (args : List Byte) (s : State) : Carried :=
  match args with
  | [] => report identBytes s
  | _ :: _ => refuse .arg s

/-- STATUS_GET (R184). -/
def cmdStatusGet (args : List Byte) (s : State) : Carried :=
  match args with
  | [] => report (statusBytes s) s
  | _ :: _ => refuse .arg s

/-! ## Slot decisions of a datapath reset (R41, R42, R91) -/

/-- The visits of a datapath reset: the state, and the segments to be recorded against the running job's target when R42 demotes
it (log entry 16). -/
structure Visits where
  state : State
  owedToLead : List Nat

/-- The demotions of R41 for one entry: the lead stays, another CURRENT slot goes if its leg or the lead's is owed. -/
def demoteForReset (w : WinIx) (lead : LegIx) (e : WriteEntry) (s : State) : State :=
  (s.win w).members.foldl (fun s m =>
    if m.leg != lead && isCurrent s w m.leg && (e.owed.contains m.leg || e.owed.contains lead)
    then demoteHolding w m.leg .datapathReset .datapathReset s else s) s

/-- A STALE slot may hold another version of an entry that owes the lead: it acknowledged the entry (R91), or it was CURRENT in the
state `before` the visit, and so has just been demoted, with its owed bit already clear (R41). -/
def holdsOther (before : State) (w : WinIx) (e : WriteEntry) (l : LegIx) : Bool :=
  e.acked.contains l || (isCurrent before w l && !e.owed.contains l)

/-- The recordings of R41 and R91 for one entry that owes the lead, against each slot that is STALE now. The model's choice (log entry
42): they follow all the demotions of the entry, in list order. -/
def recordForReset (before : State) (w : WinIx) (g : Nat) (e : WriteEntry) (s : State) : State :=
  (s.win w).members.foldl (fun s m =>
    if slotState s w m.leg == some .stale && holdsOther before w e m.leg then addStale w m.leg g s else s) s

/-- The running job's target in window `w` has acknowledged the entry. -/
def targetAcked (s : State) (w : WinIx) (e : WriteEntry) : Bool :=
  (runningJob s).any fun j => j.window == w && e.acked.contains j.target

/-- The visit of one tracker entry (R41, R91). -/
def visitEntry (v : Visits) (r : Nat) : Visits :=
  match findWrite v.state r with
  | some e =>
    match e.window, e.segment with
    | some w, some g =>
      match leadOf (v.state.win w) with
      | some lead =>
        let s1 := demoteForReset w lead.leg e v.state
        if e.owed.contains lead.leg then
          { state := decideEmptied r (clearOwed r lead.leg (recordForReset v.state w g e s1))
            owedToLead := if targetAcked v.state w e then v.owedToLead ++ [g] else v.owedToLead }
        else { v with state := s1 }
      | none => v
    | _, _ => v
  | none => v

/-- R42: the running job is aborted and its target demoted, and the recordings of R91 for it are made. -/
def demoteTarget (v : Visits) : State :=
  match runningJob v.state with
  | some j =>
    v.owedToLead.foldl (fun s g => addStale j.window j.target g s)
      (demoteHolding j.window j.target .datapathReset .datapathReset v.state)
  | none => v.state

/-- The slot decisions of a datapath reset: every entry in acceptance order, then the target (R41, R42). -/
def resetSlots (s : State) : State :=
  demoteTarget ((s.writes.map (·.ref)).foldl visitEntry { state := s, owedToLead := [] })

/-! ## Answers and emptying (R65, R86, R125, R148, R161) -/

/-- Every job that is queued is removed with JOB_ENDED DATAPATH_RESET, in queue order (R125). -/
def resetJobs (s : State) : State := postEnded .datapathReset s.jobs { s with jobs := [] }

/-- The FAULT answers of the unanswered writes, in acceptance order (R65). -/
def resetWriteItems (s : State) : List AnswerItem :=
  (s.writes.filter fun e => !e.answered).map fun e => .write e.tag .fault

/-- The FAULT answers of the undelivered beats, in acceptance order and beat order (R86). -/
def resetReadItems (s : State) : List AnswerItem :=
  s.reads.flatMap fun e => faultBeats e.tag e.delivered (e.beatsTotal - e.delivered)

/-- Items merged from two units, and the number of free choices taken. -/
structure Merged where
  items : List AnswerItem
  choices : Nat

/-- The items of two units join the answer queue in either order, each unit's own in its own order (R161; log entry 5). The first
argument bounds the number of items; the second is the counter of free choices. -/
def mergeItems : Nat → Nat → List AnswerItem → List AnswerItem → Merged
  | 0, c, as, bs => { items := as ++ bs, choices := c }
  | _ + 1, c, [], bs => { items := bs, choices := c }
  | _ + 1, c, as, [] => { items := as, choices := c }
  | n + 1, c, a :: as, b :: bs =>
    if Config.writeItemFirst c then
      { mergeItems n (c + 1) as (b :: bs) with items := a :: (mergeItems n (c + 1) as (b :: bs)).items }
    else { mergeItems n (c + 1) (a :: as) bs with items := b :: (mergeItems n (c + 1) (a :: as) bs).items }

/-- Both units' items, merged. -/
def resetItems (s : State) : Merged :=
  mergeItems ((resetWriteItems s).length + (resetReadItems s).length) s.choices (resetWriteItems s) (resetReadItems s)

/-- Part 4 of R186: the answers join the answer queue. -/
def resetAnswers (s : State) : State :=
  { pushAnswers (resetItems s).items s with choices := (resetItems s).choices }

/-- Part 5 of R186: trackers, hold queue and leg queues are emptied and LIVE entries orphaned; progress becomes CLEARING. -/
def resetEmpty (s : State) : State :=
  State.raiseWork { s with
    writes := []
    hold := []
    reads := []
    legs := s.legs.map LegPort.abandonAll
    port := { s.port with progress := .clearing } }

/-- Part 1 of R186: progress becomes ANSWERING, and acceptance stops (R161). -/
def resetStart (s : State) : State := holdHead { s with port := { s.port with progress := .answering } }

/-- The five parts of a datapath reset (R186). -/
def datapathReset (s : State) : State := resetEmpty (resetAnswers (resetJobs (resetSlots (resetStart s))))

/-- DATAPATH_RESET (R186). -/
def cmdDatapathReset (args : List Byte) (s : State) : Carried :=
  if inReset s then refuse .busy s
  else
    match args with
    | [] => finish .accepted (datapathReset s)
    | _ :: _ => refuse .arg s

end Sys2Proof.Machine
end

