-- ==== Sys2Proof/Machine/Port.lean ====
section
/-! DEFINITION. Management port: frames received byte by byte, the command a code names, responses, chip select (R177 to R182,
R189, R193). -/

namespace Sys2Proof.Machine

/-! ## Carrying out a frame (R179, R181, R182) -/

/-- The command that a code names is carried out with its argument bytes; another code is UNKNOWN (R181, R182). -/
def carryOut (code : Byte) (args : List Byte) (s : State) : Carried :=
  if code == 0x01 then cmdIdent args s
  else if code == 0x02 then cmdStatusGet args s
  else if code == 0x03 then cmdDatapathReset args s
  else if code == 0x10 then cmdWindowSet args s
  else if code == 0x11 then cmdWindowGet args s
  else if code == 0x12 then cmdWindowEnable args s
  else if code == 0x13 then cmdWindowDisable args s
  else if code == 0x14 then cmdWindowReseed args s
  else if code == 0x15 then cmdPassSet args s
  else if code == 0x20 then cmdMemberAdd args s
  else if code == 0x21 then cmdMemberRemove args s
  else if code == 0x22 then cmdMemberGet args s
  else if code == 0x30 then cmdLegEnable args s
  else if code == 0x31 then cmdLegDisable args s
  else if code == 0x32 then cmdLegGet args s
  else if code == 0x33 then cmdLegSetTimeout args s
  else if code == 0x40 then cmdResyncQueue args s
  else if code == 0x41 then cmdResyncCancel args s
  else if code == 0x42 then cmdResyncGet args s
  else if code == 0x50 then cmdStaleCount args s
  else if code == 0x51 then cmdStaleList args s
  else if code == 0x60 then cmdEventPop args s
  else if code == 0x61 then cmdEventConfig args s
  else if code == 0x62 then cmdHealthRead args s
  else refuse .unknown s

/-- Changes the management port's record. -/
def modPort (f : Port → Port) (s : State) : State := { s with port := f s.port }

/-- A response is made as the new response (R178). -/
def respond (seq : Byte) (c : Carried) : State :=
  modPort (fun p => { p with newResponse := some { seq := seq, status := c.status, results := c.results } }) c.state

/-- The response to a failed frame: status FRAME, no results (R179). -/
def frameFailure (s : State) : Carried := { state := s, status := .frame, results := [] }

/-- A complete frame is checked and carried out (R178, R179, R181). In the 1 ms after the release of RESET it is neither carried out
nor answered (R193). -/
def completeFrame (code seq : Byte) (args : List Byte) (check : Byte) (s : State) : State :=
  if s.port.guard then s
  else if xorBytes (code :: seq :: BitVec.ofNat 8 args.length :: args ++ [check]) != 0 then
    respond seq (frameFailure s)
  else respond seq (carryOut code args s)

/-! ## Bytes of an assertion (R178) -/

/-- The frame's buffer is complete: code, sequence byte, length, that many arguments, check byte. -/
def bufferComplete (b : List Byte) : Bool :=
  decide (3 ≤ b.length) && b.length == 4 + (b.getD 2 0).toNat

/-- The argument length in the buffer is over 48. -/
def bufferOverlong (b : List Byte) : Bool := decide (3 ≤ b.length) && decide (Config.maxArguments < (b.getD 2 0).toNat)

/-- A byte is stored in the receive buffer: the condition becomes OVERLONG, COMPLETE with the frame carried out, or RECEIVING
(R178). -/
def storeByte (x : Byte) (s : State) : State :=
  let b := s.port.buffer ++ [x]
  if bufferOverlong b then modPort (fun p => { p with buffer := b, condition := .overlong }) s
  else if bufferComplete b then
    completeFrame (b.getD 0 0) (b.getD 1 0) ((b.drop 3).dropLast) x (modPort (fun p => { p with buffer := b, condition := .complete }) s)
  else modPort (fun p => { p with buffer := b, condition := .receiving }) s

/-- One byte received in an assertion, and one byte time of the response (R178, R180). -/
def takeByte (s : State) (x : Byte) : State :=
  let s1 := modPort (fun p => { p with byteTimes := p.byteTimes + 1 }) s
  match s.port.condition with
  | .none => if x == 0xFF then modPort (fun p => { p with condition := .fetchOnly }) s1 else storeByte x s1
  | .receiving => storeByte x s1
  | .fetchOnly => s1
  | .overlong => s1
  | .complete => s1

/-- Bytes received in an assertion; none are taken outside one (R177, R178). -/
def receive (bs : List Byte) (s : State) : State :=
  if s.port.selected && !s.resetAsserted then bs.foldl takeByte s else s

/-- The bytes of a frame with its correct check byte (R179, R189). -/
def frameBytes (code seq : Byte) (args : List Byte) : List Byte :=
  let body := code :: seq :: BitVec.ofNat 8 args.length :: args
  body ++ [xorBytes body]

/-- A complete, well-checked frame is received. -/
def receiveFrame (code seq : Byte) (args : List Byte) (s : State) : State := receive (frameBytes code seq args) s

/-! ## Chip select (R178, R180) -/

/-- The port as an assertion begins: nothing received; what it shifts out is the pending response, or after too short a deselect
time the one that was pending before the frame (R180; log entry 11). -/
def Port.select (p : Port) (early : Bool) : Port :=
  if early && p.installed then
    { p with selected := true, buffer := [], condition := .none, newResponse := none, byteTimes := 0,
             shiftOut := p.prior, late := p.pendingResponse, pendingResponse := p.prior }
  else
    { p with selected := true, buffer := [], condition := .none, newResponse := none, byteTimes := 0,
             shiftOut := p.pendingResponse, late := none }

/-- Chip select falls; the lines are ignored while RESET is asserted (R177). -/
def chipFall (early : Bool) (s : State) : State :=
  if s.port.selected || s.resetAsserted then s else modPort (fun p => p.select early) s

/-- A frame still RECEIVING, or OVERLONG, when chip select rises gets a FRAME response; the echo is its second byte, 0 if none was
received (R179). -/
def failOpenFrame (s : State) : State :=
  if s.port.guard then s
  else if s.port.condition == .receiving || s.port.condition == .overlong then
    respond (s.port.buffer.getD 1 0) (frameFailure s)
  else s

/-- The response shifted out has been shifted out in full. -/
def Port.fetched (p : Port) : Bool := p.shiftOut.any fun r => decide (r.bytes.length ≤ p.byteTimes)

/-- The response that is pending after the rise (R180 steps 1 to 3, and the end of an early assertion). -/
def Port.pendingAfter (p : Port) : Option Response :=
  match p.newResponse, p.late with
  | some r, _ => some r
  | none, some r => some r
  | none, none => if p.fetched then none else p.pendingResponse

/-- The port as an assertion ends (R180). -/
def Port.deselect (p : Port) : Port :=
  { p with selected := false, buffer := [], condition := .none, newResponse := none, late := none,
           pendingResponse := p.pendingAfter, prior := if p.newResponse.isSome then p.pendingResponse else none,
           installed := p.newResponse.isSome }

/-- Chip select rises, after bytes that no frame row has brought (R179, R180). -/
def chipRise (bs : List Byte) (s : State) : State :=
  if s.port.selected && !s.resetAsserted then modPort Port.deselect (failOpenFrame (receive bs s)) else s

/-- The byte that the port shifts out in byte time `k` of an assertion: the response's, then 0xFF (R180). -/
def Port.outByte (p : Port) (k : Nat) : Byte := (p.shiftOut.map fun r => r.bytes.getD k 0xFF).getD 0xFF

end Sys2Proof.Machine
end

