-- ==== Sys2Proof/Machine/ResetLine.lean ====
section
/-! DEFINITION. The RESET line: cold reset (R2, R45, R67, R88, R100, R127, R152, R163, R172, R175, R177, R193). -/

namespace Sys2Proof.Machine

/-- A leg port after cold reset, with the level of its READY line, an input, as it stands (log entry 8). -/
def LegPort.coldReset (p : LegPort) : LegPort := { LegPort.reset with ready := p.ready }

/-- Every block at its cold-reset value; the levels of input lines, the requests that wait on the requester's side, the queue of
commands and the counter of free choices are not the device's and stay (log entries 7 and 8). -/
def coldReset (s : State) : State :=
  { State.reset with
    legs := s.legs.map LegPort.coldReset
    link := { Link.reset with waiting := s.link.waiting }
    choices := s.choices
    pending := s.pending }

/-- RESET is asserted: cold reset (R163, R177, R193). -/
def assertReset (s : State) : State := { coldReset s with resetAsserted := true }

/-- RESET is released: cold-reset values, the guard of 1 ms running, and requests taken from the link again (R163, R193). -/
def releaseReset (s : State) : State := if s.resetAsserted then react (coldReset s) else s

/-- The 1 ms after the release is over (R193). -/
def endGuard (s : State) : State := if s.resetAsserted then s else modPort (fun p => { p with guard := false }) s

end Sys2Proof.Machine
end

