-- ==== Sys2Proof/Machine/Commands.lean ====
section
/-! DEFINITION. The meanings of the management rows: each is a complete, well-checked frame received in an assertion (R178, R181,
R182). -/

namespace Sys2Proof.Machine

/-- The outcome of a step that runs. -/
abbrev Ran := Host.Outcome State Fault Refusal

/-- IDENT (R183). -/
def execIdent (seq : Byte) (args : List Byte) (s : State) : Ran := .next (receiveFrame 0x01 seq args s)
/-- STATUS_GET (R184). -/
def execStatusGet (seq : Byte) (args : List Byte) (s : State) : Ran := .next (receiveFrame 0x02 seq args s)
/-- DATAPATH_RESET (R186). -/
def execDatapathReset (seq : Byte) (args : List Byte) (s : State) : Ran := .next (receiveFrame 0x03 seq args s)
/-- WINDOW_SET (R8, R9). -/
def execWindowSet (seq : Byte) (args : List Byte) (s : State) : Ran := .next (receiveFrame 0x10 seq args s)
/-- WINDOW_GET (R10). -/
def execWindowGet (seq : Byte) (args : List Byte) (s : State) : Ran := .next (receiveFrame 0x11 seq args s)
/-- WINDOW_ENABLE (R11). -/
def execWindowEnable (seq : Byte) (args : List Byte) (s : State) : Ran := .next (receiveFrame 0x12 seq args s)
/-- WINDOW_DISABLE (R15). -/
def execWindowDisable (seq : Byte) (args : List Byte) (s : State) : Ran := .next (receiveFrame 0x13 seq args s)
/-- WINDOW_RESEED (R19). -/
def execWindowReseed (seq : Byte) (args : List Byte) (s : State) : Ran := .next (receiveFrame 0x14 seq args s)
/-- PASS_SET (R7). -/
def execPassSet (seq : Byte) (args : List Byte) (s : State) : Ran := .next (receiveFrame 0x15 seq args s)
/-- MEMBER_ADD (R25). -/
def execMemberAdd (seq : Byte) (args : List Byte) (s : State) : Ran := .next (receiveFrame 0x20 seq args s)
/-- MEMBER_REMOVE (R27). -/
def execMemberRemove (seq : Byte) (args : List Byte) (s : State) : Ran := .next (receiveFrame 0x21 seq args s)
/-- MEMBER_GET (R43). -/
def execMemberGet (seq : Byte) (args : List Byte) (s : State) : Ran := .next (receiveFrame 0x22 seq args s)
/-- LEG_ENABLE (R129). -/
def execLegEnable (seq : Byte) (args : List Byte) (s : State) : Ran := .next (receiveFrame 0x30 seq args s)
/-- LEG_DISABLE (R130). -/
def execLegDisable (seq : Byte) (args : List Byte) (s : State) : Ran := .next (receiveFrame 0x31 seq args s)
/-- LEG_GET (R149). -/
def execLegGet (seq : Byte) (args : List Byte) (s : State) : Ran := .next (receiveFrame 0x32 seq args s)
/-- LEG_SET_TIMEOUT (R147). -/
def execLegSetTimeout (seq : Byte) (args : List Byte) (s : State) : Ran := .next (receiveFrame 0x33 seq args s)
/-- RESYNC_QUEUE (R102). -/
def execResyncQueue (seq : Byte) (args : List Byte) (s : State) : Ran := .next (receiveFrame 0x40 seq args s)
/-- RESYNC_CANCEL (R103). -/
def execResyncCancel (seq : Byte) (args : List Byte) (s : State) : Ran := .next (receiveFrame 0x41 seq args s)
/-- RESYNC_GET (R104). -/
def execResyncGet (seq : Byte) (args : List Byte) (s : State) : Ran := .next (receiveFrame 0x42 seq args s)
/-- STALE_COUNT (R96). -/
def execStaleCount (seq : Byte) (args : List Byte) (s : State) : Ran := .next (receiveFrame 0x50 seq args s)
/-- STALE_LIST (R97). -/
def execStaleList (seq : Byte) (args : List Byte) (s : State) : Ran := .next (receiveFrame 0x51 seq args s)
/-- EVENT_POP (R169). -/
def execEventPop (seq : Byte) (args : List Byte) (s : State) : Ran := .next (receiveFrame 0x60 seq args s)
/-- EVENT_CONFIG (R170). -/
def execEventConfig (seq : Byte) (args : List Byte) (s : State) : Ran := .next (receiveFrame 0x61 seq args s)
/-- HEALTH_READ (R174). -/
def execHealthRead (seq : Byte) (args : List Byte) (s : State) : Ran := .next (receiveFrame 0x62 seq args s)
/-- UNKNOWN_COMMAND (R181): the frame with its code, which names no command. -/
def execUnknownCommand (code seq : Byte) (args : List Byte) (s : State) : Ran := .next (receiveFrame code seq args s)
/-- FRAME_BAD_CHECK (R179): the frame with the check byte it carries. -/
def execFrameBadCheck (code seq : Byte) (args : List Byte) (check : Byte) (s : State) : Ran :=
  .next (receive (code :: seq :: BitVec.ofNat 8 args.length :: args ++ [check]) s)
/-- CHIP_SELECT_FALL (R178, R180). -/
def execChipSelectFall (early : Bool) (s : State) : Ran := .next (chipFall early s)
/-- CHIP_SELECT_RISE (R179, R180). -/
def execChipSelectRise (bs : List Byte) (s : State) : Ran := .next (chipRise bs s)
/-- RESET_ASSERT (R163, R177, R193). -/
def execResetAssert (s : State) : Ran := .next (assertReset s)
/-- RESET_RELEASE (R163, R193). -/
def execResetRelease (s : State) : Ran := .next (releaseReset s)
/-- RESET_GUARD_END (R193). -/
def execResetGuardEnd (s : State) : Ran := .next (endGuard s)

end Sys2Proof.Machine
end

