-- ==== Sys2Proof/Machine/Arrivals.lean ====
section
/-! DEFINITION. The meanings of the other rows: requests and answers, leg arrivals, timers, and the device's internal steps. -/

namespace Sys2Proof.Machine

/-- REQUEST (R150, R153): the request is delivered on the link, and taken when the port has no head. -/
def execRequest (r : Request) (s : State) : Ran :=
  .next (react { s with link := { s.link with waiting := s.link.waiting ++ [r] } })
/-- HEAD_RETRY (R157). -/
def execHeadRetry (s : State) : Ran := .next (react (retryHead s))
/-- RELEASE_RESUME (R56). -/
def execReleaseResume (s : State) : Ran := .next (react (resumeRelease s))
/-- READ_RECONSIDER (R76). -/
def execReadReconsider (s : State) : Ran := .next (react (reconsider s))
/-- ANSWER_ITEM_TAKEN (R158, R155). -/
def execAnswerItemTaken (s : State) : Ran := .next (react (takeAnswer s))

/-- READY rises (R128). -/
def readyRises (l : LegIx) (s : State) : State :=
  let s1 := modLeg l (fun p => { p with ready := true }) s
  if (s.leg l).state == .down then enterIdentifying l .readyRise s1 else s1

/-- READY falls (R128). -/
def readyFalls (l : LegIx) (s : State) : State :=
  let s1 := modLeg l (fun p => { p with ready := false }) s
  match (s.leg l).state with
  | .off => s1
  | .down => s1
  | .identifying => setLegState l .down .readyFall (stopIdentity l s1)
  | .up => leaveUp l .down .readyFall s1
  | .faulted => setLegState l .down .readyFall s1

/-- READY_RISE (R128). -/
def execReadyRise (l : LegIx) (s : State) : Ran := .next (react (readyRises l s))
/-- READY_FALL (R128). -/
def execReadyFall (l : LegIx) (s : State) : Ran := .next (react (readyFalls l s))
/-- IDENTITY_ANSWER (R132, R133); nothing is taken while RESET is asserted. -/
def execIdentityAnswer (l : LegIx) (a : IdentityAnswer) (s : State) : Ran :=
  .next (if s.resetAsserted then s else react (takeIdentity l a s))

/-- The identity timer runs out: one timeout, FAULTED (R133). -/
def identityExpires (l : LegIx) (s : State) : State :=
  if (s.leg l).state == .identifying then
    count l .timeouts (setLegState l .faulted .identityTimeout (stopIdentity l s))
  else s

/-- IDENTITY_TIMEOUT (R133). -/
def execIdentityTimeout (l : LegIx) (s : State) : Ran := .next (react (identityExpires l s))
/-- LEG_SEND (R137 to R139). -/
def execLegSend (l : LegIx) (s : State) : Ran := .next (react (sendOne l s))
/-- WRITE_RESPONSE (R141, R144). -/
def execWriteResponse (l : LegIx) (n : SeqNo) (ok : Bool) (s : State) : Ran := .next (react (takeWriteResponse l n ok s))
/-- READ_BEAT (R142, R144). -/
def execReadBeat (l : LegIx) (n : SeqNo) (first : Bool) (b : BeatAnswer) (s : State) : Ran :=
  .next (react (takeReadBeat l n first b s))
/-- ENTRY_TIMER_EXPIRY (R143). -/
def execEntryTimerExpiry (l : LegIx) (n : SeqNo) (s : State) : Ran := .next (react (expire l n s))
/-- JOB_START_ATTEMPT (R105). -/
def execJobStartAttempt (s : State) : Ran := .next (react (startAttempt s))
/-- SOURCE_RETAKE (R108). -/
def execSourceRetake (s : State) : Ran := .next (react (retakeSource s))
/-- CHUNK_READ_PLACE (R111, R112). -/
def execChunkReadPlace (s : State) : Ran := .next (react (placeChunkReads s))
/-- DRAIN_COMPLETE (R16, R17). -/
def execDrainComplete (w : WinIx) (s : State) : Ran := .next (react (testDrain w s))
/-- RESET_DONE (R162, R187). -/
def execResetDone (s : State) : Ran := .next (react (finishReset s))

end Sys2Proof.Machine
end

