-- ==== Sys2Proof/Machine/Dispatch.lean ====
section
/-! DEFINITION. Which meaning each command has: one arm per constructor of Instr. -/

namespace Sys2Proof.Machine

def exec (i : Instr) (s : State) : Host.Outcome State Fault Refusal :=
  match i with
  | .ident seq args => Sys2Proof.Machine.execIdent seq args s
  | .statusGet seq args => Sys2Proof.Machine.execStatusGet seq args s
  | .datapathReset seq args => Sys2Proof.Machine.execDatapathReset seq args s
  | .windowSet seq args => Sys2Proof.Machine.execWindowSet seq args s
  | .windowGet seq args => Sys2Proof.Machine.execWindowGet seq args s
  | .windowEnable seq args => Sys2Proof.Machine.execWindowEnable seq args s
  | .windowDisable seq args => Sys2Proof.Machine.execWindowDisable seq args s
  | .windowReseed seq args => Sys2Proof.Machine.execWindowReseed seq args s
  | .passSet seq args => Sys2Proof.Machine.execPassSet seq args s
  | .memberAdd seq args => Sys2Proof.Machine.execMemberAdd seq args s
  | .memberRemove seq args => Sys2Proof.Machine.execMemberRemove seq args s
  | .memberGet seq args => Sys2Proof.Machine.execMemberGet seq args s
  | .legEnable seq args => Sys2Proof.Machine.execLegEnable seq args s
  | .legDisable seq args => Sys2Proof.Machine.execLegDisable seq args s
  | .legGet seq args => Sys2Proof.Machine.execLegGet seq args s
  | .legSetTimeout seq args => Sys2Proof.Machine.execLegSetTimeout seq args s
  | .resyncQueue seq args => Sys2Proof.Machine.execResyncQueue seq args s
  | .resyncCancel seq args => Sys2Proof.Machine.execResyncCancel seq args s
  | .resyncGet seq args => Sys2Proof.Machine.execResyncGet seq args s
  | .staleCount seq args => Sys2Proof.Machine.execStaleCount seq args s
  | .staleList seq args => Sys2Proof.Machine.execStaleList seq args s
  | .eventPop seq args => Sys2Proof.Machine.execEventPop seq args s
  | .eventConfig seq args => Sys2Proof.Machine.execEventConfig seq args s
  | .healthRead seq args => Sys2Proof.Machine.execHealthRead seq args s
  | .unknownCommand code seq args => Sys2Proof.Machine.execUnknownCommand code seq args s
  | .frameBadCheck code seq args check => Sys2Proof.Machine.execFrameBadCheck code seq args check s
  | .chipSelectFall early => Sys2Proof.Machine.execChipSelectFall early s
  | .chipSelectRise bytes => Sys2Proof.Machine.execChipSelectRise bytes s
  | .resetAssert => Sys2Proof.Machine.execResetAssert s
  | .resetRelease => Sys2Proof.Machine.execResetRelease s
  | .resetGuardEnd => Sys2Proof.Machine.execResetGuardEnd s
  | .request r => Sys2Proof.Machine.execRequest r s
  | .headRetry => Sys2Proof.Machine.execHeadRetry s
  | .releaseResume => Sys2Proof.Machine.execReleaseResume s
  | .readReconsider => Sys2Proof.Machine.execReadReconsider s
  | .answerItemTaken => Sys2Proof.Machine.execAnswerItemTaken s
  | .readyRise leg => Sys2Proof.Machine.execReadyRise leg s
  | .readyFall leg => Sys2Proof.Machine.execReadyFall leg s
  | .identityAnswer leg answer => Sys2Proof.Machine.execIdentityAnswer leg answer s
  | .identityTimeout leg => Sys2Proof.Machine.execIdentityTimeout leg s
  | .legSend leg => Sys2Proof.Machine.execLegSend leg s
  | .writeResponse leg number ok => Sys2Proof.Machine.execWriteResponse leg number ok s
  | .readBeat leg number first beat => Sys2Proof.Machine.execReadBeat leg number first beat s
  | .entryTimerExpiry leg number => Sys2Proof.Machine.execEntryTimerExpiry leg number s
  | .jobStartAttempt => Sys2Proof.Machine.execJobStartAttempt s
  | .sourceRetake => Sys2Proof.Machine.execSourceRetake s
  | .chunkReadPlace => Sys2Proof.Machine.execChunkReadPlace s
  | .drainComplete window => Sys2Proof.Machine.execDrainComplete window s
  | .resetDone => Sys2Proof.Machine.execResetDone s

end Sys2Proof.Machine
end

