-- ==== Sys2Proof/Safety.lean ====
section
/-! DEFINITION. The terms that statements use: when the management port hears a frame, what a frame leaves in the port's record,
argument layouts, and the laws of the device's tables, queues and counters. -/

namespace Sys2Proof.Safety

open Sys2Proof.Machine

/-! ## The management port as a frame arrives -/

/-- An assertion is in progress, no byte of it has been received, and frames are carried out: RESET is released and its guard of
1 ms is over (R177, R178, R193). -/
abbrev Listening (s : State) : Prop :=
  s.port.selected = true ∧ s.resetAsserted = false ∧ s.port.condition = .none ∧ s.port.buffer = [] ∧ s.port.guard = false

/-- The same within the guard of 1 ms (R193). -/
abbrev ListeningInGuard (s : State) : Prop :=
  s.port.selected = true ∧ s.resetAsserted = false ∧ s.port.condition = .none ∧ s.port.buffer = [] ∧ s.port.guard = true

/-- The bytes of a frame: code, sequence byte, argument length, arguments, check byte (R178, R189). -/
def wholeFrame (code seq : Byte) (args : List Byte) (check : Byte) : List Byte :=
  code :: seq :: BitVec.ofNat 8 args.length :: (args ++ [check])

/-- The state that a whole frame is taken in: its bytes in the receive buffer, the condition COMPLETE, one byte time gone for each
(R178). -/
def heardWith (code seq : Byte) (args : List Byte) (check : Byte) (s : State) : State :=
  { s with port := { s.port with
      buffer := wholeFrame code seq args check
      condition := .complete
      byteTimes := s.port.byteTimes + (args.length + 4) } }

/-- The check byte that makes the exclusive-or of a frame zero (R179). -/
def goodCheck (code seq : Byte) (args : List Byte) : Byte := xorBytes (code :: seq :: BitVec.ofNat 8 args.length :: args)

/-- The state that a well-checked frame is carried out in. -/
def heard (code seq : Byte) (args : List Byte) (s : State) : State := heardWith code seq args (goodCheck code seq args) s

/-- The response to the frame just received becomes the new response (R178). -/
def answered (seq : Byte) (st : Status) (rs : List Byte) (s : State) : State :=
  { s with port := { s.port with newResponse := some { seq := seq, status := st, results := rs } } }

/-- The code, sequence byte and arguments of a management command (R182). -/
def commandFrame : Instr → Option (Byte × Byte × List Byte)
  | .ident q a => some (0x01, q, a)
  | .statusGet q a => some (0x02, q, a)
  | .datapathReset q a => some (0x03, q, a)
  | .windowSet q a => some (0x10, q, a)
  | .windowGet q a => some (0x11, q, a)
  | .windowEnable q a => some (0x12, q, a)
  | .windowDisable q a => some (0x13, q, a)
  | .windowReseed q a => some (0x14, q, a)
  | .passSet q a => some (0x15, q, a)
  | .memberAdd q a => some (0x20, q, a)
  | .memberRemove q a => some (0x21, q, a)
  | .memberGet q a => some (0x22, q, a)
  | .legEnable q a => some (0x30, q, a)
  | .legDisable q a => some (0x31, q, a)
  | .legGet q a => some (0x32, q, a)
  | .legSetTimeout q a => some (0x33, q, a)
  | .resyncQueue q a => some (0x40, q, a)
  | .resyncCancel q a => some (0x41, q, a)
  | .resyncGet q a => some (0x42, q, a)
  | .staleCount q a => some (0x50, q, a)
  | .staleList q a => some (0x51, q, a)
  | .eventPop q a => some (0x60, q, a)
  | .eventConfig q a => some (0x61, q, a)
  | .healthRead q a => some (0x62, q, a)
  | .unknownCommand c q a => if commandCodes.contains c || c == 0xFF then none else some (c, q, a)
  | .frameBadCheck _ _ _ _ => none
  | .chipSelectFall _ => none
  | .chipSelectRise _ => none
  | .resetAssert => none
  | .resetRelease => none
  | .resetGuardEnd => none
  | .request _ => none
  | .headRetry => none
  | .releaseResume => none
  | .readReconsider => none
  | .answerItemTaken => none
  | .readyRise _ => none
  | .readyFall _ => none
  | .identityAnswer _ _ => none
  | .identityTimeout _ => none
  | .legSend _ => none
  | .writeResponse _ _ _ => none
  | .readBeat _ _ _ _ => none
  | .entryTimerExpiry _ _ => none
  | .jobStartAttempt => none
  | .sourceRetake => none
  | .chunkReadPlace => none
  | .drainComplete _ => none
  | .resetDone => none

/-- The codes that R182 marks BUSY in its last column. -/
def busyCodes : List Byte :=
  [0x03, 0x10, 0x12, 0x13, 0x14, 0x15, 0x20, 0x21, 0x30, 0x31, 0x33, 0x40, 0x41]

/-- The argument length that R182 gives a code; none for WINDOW_SET, whose length follows its member count. -/
def argumentLength (code : Byte) : Option Nat :=
  if [0x01, 0x02, 0x03, 0x42, 0x60].contains code then some 0
  else if [0x11, 0x13, 0x15, 0x30, 0x31, 0x32, 0x62].contains code then some 1
  else if [0x12, 0x14, 0x21, 0x22, 0x41, 0x50].contains code then some 2
  else if [0x33, 0x40, 0x61].contains code then some 3
  else if code == 0x51 then some 6
  else if code == 0x20 then some 8
  else none

/-- An operand of a command with the right number of argument bytes names no value (R182 note 1, R7, R11, R25, R97, R147, R170,
R192): a window over 15, a leg over 3, a seed or pass-through byte that is neither a leg nor 0xFF, a mode over 2, an enable over 1,
a mask naming bits 0 or 12 to 15, a timeout outside 1 to 4,095, a leg base that is no multiple of 64 KiB, a start segment over
16,777,215. -/
def BadOperand (code : Byte) (a : List Byte) : Prop :=
  (code ∈ [(0x11 : Byte), 0x12, 0x13, 0x14, 0x20, 0x21, 0x22, 0x40, 0x41, 0x50, 0x51] ∧ 15 < (a.getD 0 0).toNat) ∨
  (code ∈ [(0x14 : Byte), 0x20, 0x21, 0x22, 0x40, 0x41, 0x50, 0x51] ∧ 3 < (a.getD 1 0).toNat) ∨
  (code ∈ [(0x30 : Byte), 0x31, 0x32, 0x33, 0x62] ∧ 3 < (a.getD 0 0).toNat) ∨
  (code = 0x12 ∧ 3 < (a.getD 1 0).toNat ∧ a.getD 1 0 ≠ 0xFF) ∨
  (code = 0x15 ∧ 3 < (a.getD 0 0).toNat ∧ a.getD 0 0 ≠ 0xFF) ∨
  (code = 0x40 ∧ 2 < (a.getD 2 0).toNat) ∨
  (code = 0x61 ∧ (1 < (a.getD 0 0).toNat ∨ (a.getD 1 0).getLsbD 0 = true ∨ 15 < (a.getD 2 0).toNat)) ∨
  (code = 0x33 ∧ (leNat (a.drop 1) = 0 ∨ 4095 < leNat (a.drop 1))) ∨
  (code = 0x20 ∧ leNat (a.drop 2) % 65536 ≠ 0) ∨
  (code = 0x51 ∧ 16777215 < leNat (a.drop 2))

/-- A leg as an argument byte. -/
def legToByte (l : LegIx) : Byte := BitVec.ofNat 8 l.val

/-- A window index as an argument byte. -/
def winToByte (w : WinIx) : Byte := BitVec.ofNat 8 w.val

/-- The arguments of WINDOW_SET, laid out by R190, from raw values: window byte, base, size, policy byte, and (leg byte, leg base)
pairs. -/
def windowSetArgs (w : Byte) (base size : Nat) (policy : Byte) (ms : List (Byte × Nat)) : List Byte :=
  w :: leBytes 6 base ++ leBytes 4 size ++ [policy, BitVec.ofNat 8 ms.length] ++ ms.flatMap fun m => m.1 :: leBytes 6 m.2

/-- The policy byte of R190: write policy in bit 0, read policy in bits 1 and 2, lag-overflow policy in bit 3, auto-rebuild in
bit 4. -/
def policyBits (wp : WritePolicy) (rp : ReadPolicy) (lp : LagPolicy) (auto : Bool) : Byte :=
  (match wp with | .sync => 0x00 | .lagged => 0x01) |||
  (match rp with | .ordered => 0x00 | .rotate => 0x02 | .shortest => 0x04) |||
  (match lp with | .stall => 0x00 | .demote => 0x08) |||
  (if auto then 0x10 else 0x00)

/-- What the block keeps of an outcome, for reading a field of the next state. -/
def nextOf : Ran → Option State
  | .next t => some t
  | .fault _ => none
  | .refused _ => none

/-! ## What the port and the device show -/

/-- The new response at a rise: a frame still RECEIVING, or OVERLONG, fails with FRAME and the frame's second byte as its echo. -/
def newAtRise (s : State) : Option Response :=
  if (s.port.condition = .receiving ∨ s.port.condition = .overlong) ∧ s.port.guard = false then
    some { seq := s.port.buffer.getD 1 0, status := .frame, results := [] }
  else s.port.newResponse

/-- The nineteen bytes of STATUS_GET, in the order of R184. -/
def statusValues (s : State) : List Byte :=
  [match s.link.accept with
    | .opened => (0 : Byte)
    | .stalled => 1
    | .resetting => 2,
   match s.link.cause with
    | .none => 0
    | .tagBusy => 1
    | .trackerFull => 2
    | .readTrackerFull => 3
    | .holdFull => 4
    | .directFull => 5
    | .lagFull => 6
    | .resetting => 7,
   BitVec.ofNat 8 s.link.tags.length] ++
  leBytes 2 s.link.answers.length ++
  [BitVec.ofNat 8 s.writes.length, BitVec.ofNat 8 s.hold.length, BitVec.ofNat 8 s.reads.length] ++
  leBytes 2 s.store.length ++
  [match s.jobs with
    | [] => (0 : Byte)
    | j :: _ => if j.running then (if j.source.isSome then 1 else 2) else 0,
   BitVec.ofNat 8 s.jobs.length,
   match s.passLeg with
    | some l => legToByte l
    | none => 0xFF,
   BitVec.ofNat 8 s.events.queue.length, BitVec.ofNat 8 s.events.drop,
   if s.events.alertEnable then 1 else 0] ++
  leBytes 2 s.events.mask.toNat ++
  [match s.port.progress with
    | .none => (0 : Byte)
    | .answering => 1
    | .clearing => 2]

/-! ## Ranges and capacities, as R11 and R12 word them -/

/-- Two byte ranges share at least one byte. -/
def Share (a n b m : Nat) : Prop := ∃ x, a ≤ x ∧ x < a + n ∧ b ≤ x ∧ x < b + m

/-- A member that a seed considers: every member for ALL, the member on the named leg otherwise (R12). -/
def Considered (x : Window) (seed : Seed) (m : Member) : Prop := m ∈ x.members ∧ (seed = .all ∨ seed = .leg m.leg)

/-- The extent of a member ends at or below the capacity on the leg's record (R12). -/
def Fits (s : State) (l : LegIx) (base size : Nat) : Prop :=
  ∃ i, (s.leg l).identity = some i ∧ base + size * 65536 ≤ i.capacity * 65536

/-- The upstream range of `w` overlaps the range of an ENABLED or DRAINING window (R11). -/
def RangeOverlaps (s : State) (w : WinIx) : Prop :=
  ∃ v, v ≠ w ∧ (s.win v).state ≠ .disabled ∧
    Share (s.win w).base ((s.win w).size * 65536) (s.win v).base ((s.win v).size * 65536)

/-- An extent on a leg overlaps the extent of a member on the same leg of an ENABLED or DRAINING window among those that `p` lets
through (R11, R25). -/
def ExtentOverlaps (s : State) (p : WinIx → Prop) (l : LegIx) (base bytes : Nat) : Prop :=
  ∃ v, p v ∧ (s.win v).state ≠ .disabled ∧ ∃ m ∈ (s.win v).members, m.leg = l ∧ Share base bytes m.base ((s.win v).size * 65536)

/-! ## Chunks of the running job (R99, R113) -/

/-- Chunk `c` of the running job is in process in a phase, and the job has number `n`. -/
def ChunkIn (s : State) (n : BitVec 8) (c : Nat) (ph : ChunkPhase) : Prop :=
  ∃ j, runningJob s = some j ∧ j.number = n ∧ ∃ k ∈ j.chunks, k.index = c ∧ k.phase = ph

/-! ## AUTO jobs, as R14 and R101 word them -/

/-- An AUTO job at the queue's tail with the next job number, or AUTO_QUEUE_FULL when the queue holds 8 jobs (R14, R101). -/
def autoQueued (w : WinIx) (l : LegIx) (s : State) : State :=
  if s.jobs.length < 8 then
    { s with jobs := s.jobs ++ [newJob s.nextJob w l .auto], nextJob := s.nextJob + 1, notice := { s.notice with work := true } }
  else { s with events := s.events.offer (.autoQueueFull w l) }

/-- The members that R14 names: STALE, the leg UP, the extent within capacity, no job for the slot. -/
def needJob (w : WinIx) (s : State) : List Member :=
  (s.win w).members.filter fun m => m.state == some .stale && isUp s m.leg && fitsLeg (s.leg m.leg) m.base (s.win w).size &&
    s.jobs.all fun j => !(j.window == w && j.target == m.leg)

/-- The AUTO jobs of R14, in list order. -/
def autoQueuedAll (w : WinIx) (s : State) : State := (needJob w s).foldl (fun u m => autoQueued w m.leg u) s

/-! ## Laws of the device -/

/-- The slot on leg `l` may have entries: it is STALE or REBUILDING, with WHOLE clear (R87). -/
def MayList (x : Window) (l : LegIx) : Prop :=
  ∃ m, x.members.find? (fun m => m.leg == l) = some m ∧ (m.state = some .stale ∨ m.state = some .rebuilding) ∧ m.whole = false

/-- The slots of a DISABLED window have no state (R23). -/
def Vacant (x : Window) : Prop := x.state = .disabled → ∀ m ∈ x.members, m.state = none

/-- The stale segment store's law (R87): its canonical form, strictly ascending triples, at most 4,096; every entry is of a member
slot of a window that is not DISABLED, a slot that is neither CURRENT nor WHOLE. With it goes R23: the slots of a DISABLED window have
no state. -/
def StoreLaw (s : State) : Prop :=
  Store.wf s.store ∧
  (∀ e ∈ s.store, (s.win e.window).state ≠ .disabled ∧ MayList (s.win e.window) e.leg) ∧
  ∀ w, Vacant (s.win w)

/-- Stored records carry consecutive numbers, and the next number follows the last (R166). -/
def Consecutive : List StoredEvent → BitVec 16 → Prop
  | [], _ => True
  | [e], n => e.seq + 1 = n
  | e :: f :: es, n => e.seq + 1 = f.seq ∧ Consecutive (f :: es) n

/-- The event unit's law (R165 to R168, R170, R172, R192): at most 32 records with consecutive numbers, a drop count of at most 255
that is not zero only while the queue is full, and a mask that names kinds 1 to 11 only. -/
def EventLaw (s : State) : Prop :=
  s.events.queue.length ≤ 32 ∧ s.events.drop ≤ 255 ∧ Consecutive s.events.queue s.events.nextSeq ∧
  s.events.mask &&& 0xF001 = 0 ∧ (s.events.drop ≠ 0 → s.events.queue.length = 32)

/-- Every health counter stays within 0 to 65,535 (R173). -/
def CounterLaw (s : State) : Prop :=
  ∀ l : LegIx, (s.counters l).readFailures ≤ 65535 ∧ (s.counters l).writeFailures ≤ 65535 ∧ (s.counters l).timeouts ≤ 65535 ∧
    (s.counters l).late ≤ 65535 ∧ (s.counters l).stray ≤ 65535 ∧ (s.counters l).failovers ≤ 65535

/-- The bounds of a leg port's queues and table (R127, R135, R140, R145), with no number held twice (R137). -/
def PortBounds (p : LegPort) : Prop :=
  p.direct.length ≤ 16 ∧ p.lag.length ≤ 64 ∧ p.copy.length ≤ 4 ∧ p.inflight.length ≤ 16 ∧
  (p.inflight.map (·.number)).Nodup ∧ p.failures ≤ 4

/-- Ages ascend along a queue and lie below the next age (R135). -/
def Aged (n : Nat) (q : List LegRequest) : Prop := q.Pairwise (fun a b => a.age < b.age) ∧ ∀ r ∈ q, r.age < n

/-- The queues of a leg port are in entry order (R135). -/
def AgeOrder (p : LegPort) : Prop := Aged p.nextAge p.direct ∧ Aged p.nextAge p.lag ∧ Aged p.nextAge p.copy

/-- Every leg port keeps its bounds and its queues in entry order. -/
def LegLaw (s : State) : Prop := ∀ l : LegIx, PortBounds (s.leg l) ∧ AgeOrder (s.leg l)

/-- The bounds of a job record: at most 4 chunks in process, pass 1 to 4 (R99). -/
def JobBounds (j : Job) : Prop := j.chunks.length ≤ 4 ∧ ∀ p, j.pass = some p → 1 ≤ p ∧ p ≤ 4

/-- The bounds of the trackers, the hold queue and the job queue (R44, R55, R66, R99); only the head job runs; references name one
entry each. -/
def TableLaw (s : State) : Prop :=
  s.writes.length ≤ 32 ∧ s.reads.length ≤ 24 ∧ s.hold.length ≤ 8 ∧ s.jobs.length ≤ 8 ∧
  (s.writes.map (·.ref)).Nodup ∧ (s.reads.map (·.ref)).Nodup ∧
  (∀ e ∈ s.writes, e.ref < s.nextRef) ∧ (∀ e ∈ s.reads, e.ref < s.nextRef) ∧
  (∀ j ∈ s.jobs, JobBounds j) ∧ (∀ j ∈ s.jobs.tail, j.running = false)

/-- The request link port's record is consistent (R152): the stall cause is NONE exactly in OPEN and RESETTING exactly in RESETTING,
which lasts as long as a datapath reset; a STALLED port has a head; no tag is in use twice. -/
def LinkLaw (s : State) : Prop :=
  (s.link.accept = .opened ↔ s.link.cause = .none) ∧
  (s.link.accept = .resetting ↔ s.link.cause = .resetting) ∧
  (s.link.accept = .resetting ↔ s.port.progress ≠ .none) ∧
  (s.link.accept = .stalled → s.link.head.isSome = true) ∧
  (s.link.tags.map (·.tag)).Nodup

end Sys2Proof.Safety
end

