-- ==== Sys2Proof/Certificates/Slice0/Obligations.lean ====
section
/-! DEFINITION. The statements for the provers. Where a statement's next state is `react …`, the reactions of other blocks follow the
command's own effect in the same step (log entry 3); `ReactionsKeepWhatTheyDoNotOwn` says what they leave alone. -/

open Sys2Proof Sys2Proof.Machine Sys2Proof.Safety

/-! ## The step -/

/-- A step takes the command at the front of the queue and runs it on the state with the queue's rest; an empty queue idles (log
entry 1, the model's choice). -/
def Obligations.StepTakesTheFrontCommand : Prop :=
  (∀ (c : Instr) (rest : List Instr) (s : State), s.pending = c :: rest → step s = exec c { s with pending := rest }) ∧
  (∀ s : State, s.pending = [] → step s = .next s)

/-- Every command completes in every state (that none stops is log entry 33, DEDUCED), and none touches the queue of commands (the queue
itself is log entry 1, the model's choice). -/
def Obligations.EveryCommandCompletes : Prop :=
  ∀ (c : Instr) (s : State), ∃ t, exec c s = .next t ∧ t.pending = s.pending

/-- With no notice due, and no request that can be taken from the link, a step has no reactions; and whatever they do, reactions leave
alone: the pass-through setting, the next job number, the RESET line, the management port but for reset progress, and every leg's state,
identity, READY level, timeout, next sequence number, arbiter position, failure count and identity timer. -/
def Obligations.ReactionsKeepWhatTheyDoNotOwn : Prop :=
  (∀ s : State, s.notice.any = false → s.link.waiting = [] ∨ s.link.head ≠ none ∨ s.resetAsserted = true → react s = s) ∧
  ∀ s : State, (react s).passLeg = s.passLeg ∧ (react s).nextJob = s.nextJob ∧ (react s).resetAsserted = s.resetAsserted ∧
    (react s).choices = s.choices ∧ { (react s).port with progress := s.port.progress } = s.port ∧
    ∀ l : LegIx, ((react s).leg l).state = (s.leg l).state ∧ ((react s).leg l).identity = (s.leg l).identity ∧
      ((react s).leg l).ready = (s.leg l).ready ∧ ((react s).leg l).timeout = (s.leg l).timeout ∧
      ((react s).leg l).nextNumber = (s.leg l).nextNumber ∧ ((react s).leg l).arbiter = (s.leg l).arbiter ∧
      ((react s).leg l).failures = (s.leg l).failures ∧ ((react s).leg l).identityTimer = (s.leg l).identityTimer

/-! ## Reset -/

/-- What cold reset leaves, block by block. -/
def Obligations.ResetStateHoldsColdResetValues : Prop :=
  (∀ w : WinIx, State.reset.win w =
    { state := .disabled, base := 0, size := 0, writePolicy := .sync, readPolicy := .ordered, lagPolicy := .stall,
      autoRebuild := false, members := [], rotate := 0 }) ∧
  State.reset.passLeg = none ∧ State.reset.writes = [] ∧ State.reset.hold = [] ∧ State.reset.reads = [] ∧
  State.reset.store = [] ∧ State.reset.jobs = [] ∧ State.reset.nextJob = 0 ∧ engineState State.reset = .idle ∧
  (∀ l : LegIx, (State.reset.leg l).state = .off ∧ (State.reset.leg l).identity = none ∧ (State.reset.leg l).timeout = 250 ∧
    (State.reset.leg l).direct = [] ∧ (State.reset.leg l).lag = [] ∧ (State.reset.leg l).copy = [] ∧
    (State.reset.leg l).inflight = [] ∧ (State.reset.leg l).nextNumber = 0 ∧ (State.reset.leg l).arbiter = 0 ∧
    (State.reset.leg l).failures = 0 ∧ (State.reset.leg l).identityTimer = none) ∧
  State.reset.link.accept = .opened ∧ State.reset.link.head = none ∧ State.reset.link.cause = .none ∧
  State.reset.link.tags = [] ∧ State.reset.link.answers = [] ∧
  State.reset.events.queue = [] ∧ State.reset.events.nextSeq = 0 ∧ State.reset.events.drop = 0 ∧
  State.reset.events.alertEnable = false ∧ State.reset.events.mask = 0 ∧ alertLine State.reset = false ∧
  (∀ l : LegIx, State.reset.counters l =
    { readFailures := 0, writeFailures := 0, timeouts := 0, late := 0, stray := 0, failovers := 0 }) ∧
  State.reset.port.buffer = [] ∧ State.reset.port.condition = .none ∧ State.reset.port.pendingResponse = none ∧
  State.reset.port.newResponse = none ∧ State.reset.port.progress = .none

/-- RESET_ASSERT completes in every state and puts every block at its cold-reset value; the levels of the READY lines, the requests
still on the link, the queue of commands and the count of free choices are not the device's and stay (log entries 7 and 8, the
model's choice). -/
def Obligations.ResetAssertAppliesColdReset : Prop :=
  ∀ s : State, exec .resetAssert s = .next
    { State.reset with
      legs := s.legs.map fun p => { LegPort.reset with ready := p.ready }
      link := { Link.reset with waiting := s.link.waiting }
      choices := s.choices
      pending := s.pending
      resetAsserted := true }

/-- RESET_RELEASE completes: with RESET asserted every block is at its cold-reset value, the guard of 1 ms runs, and the requests that
wait on the link are taken again (that they have waited there is log entry 7, the model's choice, unsafe; what stays is log entry 8), so that
a first request is answered FAULT, or REJECT if it is malformed; with RESET not asserted nothing changes. While the guard runs, a management
frame, well checked or not, leaves the device as it was and makes no response (log entry 12); RESET_GUARD_END completes and ends the guard. -/
def Obligations.ResetReleaseStartsFreshUnderTheGuard : Prop :=
  (∀ s : State, s.resetAsserted = true →
    exec .resetRelease s = .next (react
      { State.reset with
        legs := s.legs.map fun p => { LegPort.reset with ready := p.ready }
        link := { Link.reset with waiting := s.link.waiting }
        choices := s.choices
        pending := s.pending })) ∧
  (∀ s : State, s.resetAsserted = true → s.link.waiting = [] →
    exec .resetRelease s = .next
      { State.reset with
        legs := s.legs.map fun p => { LegPort.reset with ready := p.ready }
        choices := s.choices
        pending := s.pending }) ∧
  (∀ (s : State) (r : Request), s.resetAsserted = true → s.link.waiting = [r] →
    exec .resetRelease s = .next
      { State.reset with
        legs := s.legs.map fun p => { LegPort.reset with ready := p.ready }
        choices := s.choices
        pending := s.pending
        link := { Link.reset with
          tags := [{ tag := r.tag, due := if isMalformed r then .reject else dueFor r }]
          answers := if isMalformed r then [.reject r.tag r.kind] else faultItems r } }) ∧
  (∀ s : State, s.resetAsserted = false → exec .resetRelease s = .next s) ∧
  State.reset.port.guard = true ∧
  (∀ (s : State) (c : Instr) (code q : Byte) (args : List Byte), commandFrame c = some (code, q, args) → args.length ≤ 48 →
    ListeningInGuard s → exec c s = .next (heard code q args s)) ∧
  (∀ (s : State) (code q k : Byte) (args : List Byte), code ≠ 0xFF → args.length ≤ 48 → ListeningInGuard s →
    exec (.frameBadCheck code q args k) s = .next (heardWith code q args k s)) ∧
  (∀ s : State, s.resetAsserted = false → exec .resetGuardEnd s = .next { s with port := { s.port with guard := false } }) ∧
  (∀ s : State, s.resetAsserted = true → exec .resetGuardEnd s = .next s)

/-! ## Frames -/

/-- Each complete, well-checked frame that the port hears gets one response with its sequence byte; one refused changes no state, and
only a response with status DONE carries results. -/
def Obligations.EveryFrameIsAnsweredOnce : Prop :=
  ∀ (s : State) (c : Instr) (code q : Byte) (args : List Byte), commandFrame c = some (code, q, args) → args.length ≤ 48 →
    Listening s → ∃ (t : State) (st : Status) (rs : List Byte), exec c s = .next (answered q st rs t) ∧
      (st ≠ .done → rs = []) ∧ (st ≠ .done → st ≠ .accepted → t = heard code q args s)

/-- While a datapath reset is in progress each command marked BUSY is answered BUSY and changes nothing. -/
def Obligations.DatapathResetAnswersBusy : Prop :=
  ∀ (s : State) (c : Instr) (code q : Byte) (args : List Byte), commandFrame c = some (code, q, args) → code ∈ busyCodes →
    args.length ≤ 48 → Listening s → s.port.progress ≠ .none → exec c s = .next (answered q .busy [] (heard code q args s))

/-- A wrong argument length, and an argument byte that names no value, are answered ARG with no effect, unless the answer is BUSY. A
frame whose code names no command is answered UNKNOWN, and one whose bytes do not exclusive-or to zero is answered FRAME; neither has an
effect. -/
def Obligations.BadFramesAreRefused : Prop :=
  (∀ (s : State) (c : Instr) (code q : Byte) (args : List Byte) (n : Nat), commandFrame c = some (code, q, args) →
    argumentLength code = some n → args.length ≤ 48 → Listening s → (code ∈ busyCodes → s.port.progress = .none) →
    (args.length ≠ n ∨ BadOperand code args) → exec c s = .next (answered q .arg [] (heard code q args s))) ∧
  (∀ (s : State) (code q : Byte) (args : List Byte), code ∉ commandCodes → code ≠ 0xFF → args.length ≤ 48 → Listening s →
    exec (.unknownCommand code q args) s = .next (answered q .unknown [] (heard code q args s))) ∧
  (∀ (s : State) (code q k : Byte) (args : List Byte), code ≠ 0xFF → args.length ≤ 48 → Listening s →
    xorAll (wholeFrame code q args k) ≠ 0 →
    exec (.frameBadCheck code q args k) s = .next (answered q .frame [] (heardWith code q args k s)))

/-- Outside an assertion and while RESET is asserted no frame is taken; within one, bytes after the first frame, after a first byte
0xFF or after an over-long length only take their byte times. -/
def Obligations.AnAssertionCarriesOneFrame : Prop :=
  ∀ (s : State) (c : Instr) (code q : Byte) (args : List Byte), commandFrame c = some (code, q, args) →
    (s.port.selected = false ∨ s.resetAsserted = true → exec c s = .next s) ∧
    (s.port.selected = true → s.resetAsserted = false →
      s.port.condition = .complete ∨ s.port.condition = .fetchOnly ∨ s.port.condition = .overlong →
      exec c s = .next { s with port := { s.port with byteTimes := s.port.byteTimes + (args.length + 4) } })

/-- CHIP_SELECT_FALL completes: an assertion begins with nothing received and shifts out the pending response; too soon after a rise
that installed one, it shifts out the response pending before (log entry 11); a selected port and one held in RESET ignore it. -/
def Obligations.ChipSelectFallShiftsOutThePending : Prop :=
  ∀ (s : State) (early : Bool),
    (s.port.selected = true ∨ s.resetAsserted = true → exec (.chipSelectFall early) s = .next s) ∧
    (s.port.selected = false → s.resetAsserted = false → (early = false ∨ s.port.installed = false) →
      exec (.chipSelectFall early) s = .next { s with port := { s.port with
        selected := true, buffer := [], condition := .none, newResponse := none, byteTimes := 0,
        shiftOut := s.port.pendingResponse, late := none } }) ∧
    (s.port.selected = false → s.resetAsserted = false → early = true → s.port.installed = true →
      exec (.chipSelectFall early) s = .next { s with port := { s.port with
        selected := true, buffer := [], condition := .none, newResponse := none, byteTimes := 0,
        shiftOut := s.port.prior, late := s.port.pendingResponse, pendingResponse := s.port.prior } })

/-- CHIP_SELECT_RISE completes: a new response replaces the pending one; else the response an early assertion put off becomes
pending; else one shifted out in full becomes absent; else the pending one stays. A first byte 0xFF, an argument length over 48, and bytes
of the rise's own that leave the frame incomplete, are taken as R178 and R179 say. The pending response of an early assertion is log entry 11,
that a rise within the guard makes no FRAME response log entry 12, and that the rise clears buffer, condition and new response log entry 26
(all DEDUCED). -/
def Obligations.ChipSelectRiseInstallsTheResponse : Prop :=
  (∀ s : State, s.port.selected = false ∨ s.resetAsserted = true → ∀ bs, exec (.chipSelectRise bs) s = .next s) ∧
  (∀ s : State, s.port.selected = true → s.resetAsserted = false →
    exec (.chipSelectRise []) s = .next { s with port := { s.port with
      selected := false, buffer := [], condition := .none, newResponse := none, late := none
      pendingResponse :=
        if (newAtRise s).isSome then newAtRise s
        else if s.port.late.isSome then s.port.late
        else if s.port.shiftOut.any (fun r => decide (r.bytes.length ≤ s.port.byteTimes)) then none
        else s.port.pendingResponse
      prior := if (newAtRise s).isSome then s.port.pendingResponse else none
      installed := (newAtRise s).isSome } }) ∧
  (∀ (s : State) (bs : List Byte), s.port.selected = true → s.resetAsserted = false → s.port.condition = .none →
    exec (.chipSelectRise (0xFF :: bs)) s = exec (.chipSelectRise [])
      { s with port := { s.port with condition := .fetchOnly, byteTimes := s.port.byteTimes + (bs.length + 1) } }) ∧
  (∀ (s : State) (code q n : Byte) (bs : List Byte), s.port.selected = true → s.resetAsserted = false →
    s.port.condition = .none → s.port.buffer = [] → code ≠ 0xFF → 48 < n.toNat →
    exec (.chipSelectRise (code :: q :: n :: bs)) s = exec (.chipSelectRise [])
      { s with port := { s.port with
        buffer := [code, q, n], condition := .overlong, byteTimes := s.port.byteTimes + (bs.length + 3) } }) ∧
  (∀ (s : State) (code : Byte) (bs : List Byte), s.port.selected = true → s.resetAsserted = false →
    s.port.condition = .none → s.port.buffer = [] → code ≠ 0xFF →
    (bs.length < 2 ∨ ((bs.getD 1 0).toNat ≤ 48 ∧ bs.length < (bs.getD 1 0).toNat + 3)) →
    exec (.chipSelectRise (code :: bs)) s = exec (.chipSelectRise [])
      { s with port := { s.port with
        buffer := code :: bs, condition := .receiving, byteTimes := s.port.byteTimes + (bs.length + 1) } })

/-- A response frame is echo, status code, result length, results and a check byte that makes the exclusive-or of its bytes zero; the
port shifts out its bytes, and 0xFF after it and without one. -/
def Obligations.ResponseFramesAreLaidOutAndShiftedOut : Prop :=
  (∀ r : Response, ∃ k : Byte,
    r.bytes = r.seq :: r.status.code :: BitVec.ofNat 8 r.results.length :: (r.results ++ [k]) ∧ xorBytes r.bytes = 0) ∧
  ([Status.done, .accepted, .busy, .state, .arg, .overlap, .seed, .capacity, .last, .full, .duplicate, .none, .empty, .unknown,
    .frame].map Status.code = [0x00, 0x01, 0x02, 0x03, 0x04, 0x05, 0x06, 0x07, 0x08, 0x09, 0x0A, 0x0B, 0x0C, 0x0D, 0x0E]) ∧
  (∀ (p : Port) (k : Nat), p.shiftOut = none → p.outByte k = 0xFF) ∧
  (∀ (p : Port) (r : Response) (k : Nat), p.shiftOut = some r →
    (∀ h : k < r.bytes.length, p.outByte k = r.bytes[k]) ∧ (r.bytes.length ≤ k → p.outByte k = 0xFF))

/-! ## Device commands -/

/-- IDENT completes with the nine fixed bytes and no effect. -/
def Obligations.IdentReturnsTheFixedValues : Prop :=
  ∀ (s : State) (q : Byte), Listening s →
    exec (.ident q []) s = .next
      (answered q .done [0x4C, 0x5A, 0x04, 0x24, 0x01, 0x04, 0x10, 0x20, 0x18] (heard 0x01 q [] s))

/-- STATUS_GET completes with the nineteen bytes and no effect. -/
def Obligations.StatusGetReturnsTheValuesAsTheyStand : Prop :=
  ∀ (s : State) (q : Byte), Listening s → (statusValues s).length = 19 ∧
    exec (.statusGet q []) s = .next (answered q .done (statusValues s) (heard 0x02 q [] s))

/-- DATAPATH_RESET completes, answered ACCEPTED, outside a datapath reset. Its five parts empty both trackers, the hold queue, the job
queue and every leg queue, leave no LIVE entry, hold the head unpresented, add answers only at the answer queue's tail, and keep tags,
counters, the pass-through setting, the next job number, leg states and the windows' own fields. The slot decisions visit each tracked
write of a window with a lead, in acceptance order: the lead stays CURRENT, and every other CURRENT slot goes whose leg, or the lead's, the
write still owes; where the lead is owed, the segment is recorded against each slot now STALE that acknowledged the write, or that this visit
demoted with its owed bit already clear (after all the demotions, in list order: log entry 42, the model's choice), and the lead's owed bit is
then cleared. After them the running job's target is demoted, with the recordings owed to it (when those are made is log entry 16, DEDUCED). Every
job still queued ends with JOB_ENDED DATAPATH_RESET, in queue order. -/
def Obligations.DatapathResetEmptiesTheDatapath : Prop :=
  (∀ (s : State) (q : Byte), Listening s → s.port.progress = .none →
    exec (.datapathReset q []) s = .next (answered q .accepted [] (react (datapathReset (heard 0x03 q [] s))))) ∧
  (∀ s : State, s.port.progress = .none →
    (datapathReset s).writes = [] ∧ (datapathReset s).hold = [] ∧ (datapathReset s).reads = [] ∧ (datapathReset s).jobs = [] ∧
    (datapathReset s).port = { s.port with progress := .clearing } ∧
    (datapathReset s).link.accept = .resetting ∧ (datapathReset s).link.cause = .resetting ∧
    (datapathReset s).link.head = s.link.head ∧ (datapathReset s).link.tags = s.link.tags ∧
    (datapathReset s).link.waiting = s.link.waiting ∧
    (∃ items, (datapathReset s).link.answers = s.link.answers ++ items) ∧
    (datapathReset s).health = s.health ∧ (datapathReset s).passLeg = s.passLeg ∧ (datapathReset s).nextJob = s.nextJob ∧
    (∀ w : WinIx, ((datapathReset s).win w).state = (s.win w).state ∧ ((datapathReset s).win w).base = (s.win w).base ∧
      ((datapathReset s).win w).size = (s.win w).size ∧ ((datapathReset s).win w).rotate = (s.win w).rotate ∧
      ((datapathReset s).win w).writePolicy = (s.win w).writePolicy ∧
      ((datapathReset s).win w).readPolicy = (s.win w).readPolicy ∧ ((datapathReset s).win w).lagPolicy = (s.win w).lagPolicy ∧
      ((datapathReset s).win w).autoRebuild = (s.win w).autoRebuild ∧
      ((datapathReset s).win w).members.map (fun m => (m.leg, m.base)) = (s.win w).members.map fun m => (m.leg, m.base)) ∧
    ∀ l : LegIx, ((datapathReset s).leg l).direct = [] ∧ ((datapathReset s).leg l).lag = [] ∧
      ((datapathReset s).leg l).copy = [] ∧ (∀ f ∈ ((datapathReset s).leg l).inflight, f.condition ≠ .live) ∧
      ((datapathReset s).leg l).inflight.map (·.number) = (s.leg l).inflight.map (·.number) ∧
      ((datapathReset s).leg l).state = (s.leg l).state ∧ ((datapathReset s).leg l).identity = (s.leg l).identity ∧
      ((datapathReset s).leg l).timeout = (s.leg l).timeout ∧ ((datapathReset s).leg l).nextNumber = (s.leg l).nextNumber ∧
      ((datapathReset s).leg l).arbiter = (s.leg l).arbiter ∧ ((datapathReset s).leg l).failures = (s.leg l).failures) ∧
  (∀ s : State, datapathReset s = resetEmpty (resetAnswers (resetJobs (resetSlots
    { s with
      port := { s.port with progress := .answering }
      link := { s.link with accept := .resetting, cause := .resetting } })))) ∧
  (∀ s : State, resetSlots s = demoteTarget ((s.writes.map (·.ref)).foldl visitEntry { state := s, owedToLead := [] })) ∧
  (∀ (v : Visits) (n : Nat), findWrite v.state n = none → visitEntry v n = v) ∧
  (∀ (v : Visits) (n : Nat) (e : WriteEntry), findWrite v.state n = some e →
    (e.window = none → visitEntry v n = v) ∧
    ∀ (w : WinIx) (g : Nat), e.window = some w → e.segment = some g →
      (leadOf (v.state.win w) = none → visitEntry v n = v) ∧
      ∀ k, leadOf (v.state.win w) = some k →
        let D := demoteForReset w k.leg e v.state
        let R := recordForReset v.state w g e D
        let holds (m : Member) := m.leg ∈ e.acked ∨ (isCurrent v.state w m.leg = true ∧ m.leg ∉ e.owed)
        D = (v.state.win w).members.foldl (fun u m =>
          if m.leg ≠ k.leg ∧ isCurrent u w m.leg = true ∧ (m.leg ∈ e.owed ∨ k.leg ∈ e.owed)
          then demoteHolding w m.leg .datapathReset .datapathReset u else u) v.state ∧
        R = (D.win w).members.foldl (fun u m =>
          if slotState u w m.leg = some .stale ∧ holds m then addStale w m.leg g u else u) D ∧
        isCurrent D w k.leg = isCurrent v.state w k.leg ∧
        (∀ m ∈ (v.state.win w).members, m.leg ≠ k.leg → slotState D w m.leg =
          if isCurrent v.state w m.leg = true ∧ (m.leg ∈ e.owed ∨ k.leg ∈ e.owed) then some .stale else slotState v.state w m.leg) ∧
        (k.leg ∉ e.owed → visitEntry v n = { v with state := D }) ∧
        (k.leg ∈ e.owed →
          (∀ m ∈ (v.state.win w).members, slotState D w m.leg = some .stale → holds m →
            { window := w, leg := m.leg, segment := g } ∈ R.store ∨ isWhole R w m.leg = true) ∧
          (visitEntry v n).state = decideEmptied n (clearOwed n k.leg R) ∧
          (visitEntry v n).owedToLead =
            if (runningJob v.state).any (fun j => j.window == w && e.acked.contains j.target) then v.owedToLead ++ [g]
            else v.owedToLead)) ∧
  (∀ v : Visits, (runningJob v.state = none → demoteTarget v = v.state) ∧
    ∀ j, runningJob v.state = some j → demoteTarget v = v.owedToLead.foldl (fun u g => addStale j.window j.target g u)
      (demoteHolding j.window j.target .datapathReset .datapathReset v.state)) ∧
  (∀ s : State, resetJobs s = { s with
    jobs := []
    events := (s.jobs.map fun j => EventRec.jobEnded j.window j.target .datapathReset j.number).foldl EventUnit.offer s.events })

/-- In the answering part of a datapath reset every unanswered write and every undelivered beat gets one FAULT item at the tail of the
answer queue, each unit's items in its own order and the two units' in either (a free value of `Config`, log entry 5); nothing else
changes but the count of free choices. -/
def Obligations.ResetAnswersEveryOpenRequestOnce : Prop :=
  ∀ s : State, ∃ items : List AnswerItem,
    let ws : List AnswerItem := (s.writes.filter fun e => !e.answered).map fun e => .write e.tag .fault
    let rs : List AnswerItem := s.reads.flatMap fun e =>
      (List.range (e.beatsTotal - e.delivered)).map fun k => .beat e.tag (e.delivered + k) .fault (List.replicate 16 0)
    resetAnswers s = { s with
      link := { s.link with answers := s.link.answers ++ items }, choices := (resetAnswers s).choices } ∧
    items.Perm (ws ++ rs) ∧ ws.Sublist items ∧ rs.Sublist items

/-! ## Windows -/

/-- WINDOW_SET is answered by the first condition of R8 that holds; DONE replaces every configured field, with unbound slots and the
rotate pointer at 0, and presents a STALLED head again (R157), and any other status changes nothing. The arguments are those of R190 for raw
values of every field; a length that is not 13 + 7n for the member count n they carry is refused with ARG. That a bad policy byte, and a
member count over 4, are refused after the STATE test is log entry 22, the model's choice. -/
def Obligations.WindowSetChecksAndReplacesTheRecord : Prop :=
  (∀ (s : State) (q : Byte) (args : List Byte), Listening s → args.length ≤ 48 → args.length ≠ 13 + 7 * (args.getD 12 0).toNat →
    exec (.windowSet q args) s =
      .next (answered q (if s.port.progress ≠ .none then .busy else .arg) [] (heard 0x10 q args s))) ∧
  ∀ (s : State) (q w p : Byte) (base size : Nat) (ms : List (Byte × Nat)), Listening s → base < 2 ^ 48 → size < 2 ^ 32 →
    (∀ m ∈ ms, m.2 < 2 ^ 48) → ms.length ≤ 5 →
    let args := windowSetArgs w base size p ms
    let st : Status :=
      if s.port.progress ≠ .none then .busy
      else if 15 < w.toNat then .arg
      else if (s.win (Fin.ofNat 16 w.toNat)).state ≠ .disabled then .state
      else if base % 65536 ≠ 0 ∨ (∃ m ∈ ms, m.2 % 65536 ≠ 0) then .arg
      else if size = 0 ∨ 16777216 < size then .arg
      else if 2 ^ 48 < base + size * 65536 then .arg
      else if ms = [] ∨ 4 < ms.length then .arg
      else if (∃ m ∈ ms, 3 < m.1.toNat) ∨ ¬ (ms.map (·.1)).Nodup then .arg
      else if (p.getLsbD 1 = true ∧ p.getLsbD 2 = true) ∨ 31 < p.toNat then .arg
      else .done
    (st ≠ .done → exec (.windowSet q args) s = .next (answered q st [] (heard 0x10 q args s))) ∧
    (st = .done → exec (.windowSet q args) s = .next (answered q .done [] (react
      { (heard 0x10 q args s).setWin (Fin.ofNat 16 w.toNat)
        { state := .disabled, base := base, size := size
          writePolicy := if p.getLsbD 0 then .lagged else .sync
          readPolicy := if p.getLsbD 1 then .rotate else if p.getLsbD 2 then .shortest else .ordered
          lagPolicy := if p.getLsbD 3 then .demote else .stall
          autoRebuild := p.getLsbD 4
          members := ms.map fun m =>
            { leg := Fin.ofNat 4 m.1.toNat, base := m.2, state := none, whole := false, serial := none }
          rotate := 0 } with
        notice := { s.notice with work := true, head := true } })))

/-- WINDOW_GET completes in every state of the device, a datapath reset among them, with the whole record in the layout of R190, health
and lead derived from the slots, and no effect; an index over 15 is refused with ARG. -/
def Obligations.WindowGetReturnsTheWholeRecord : Prop :=
  (∀ (s : State) (q b : Byte), Listening s → 15 < b.toNat →
    exec (.windowGet q [b]) s = .next (answered q .arg [] (heard 0x11 q [b] s))) ∧
  ∀ (s : State) (q : Byte) (w : WinIx), Listening s →
    let x := s.win w
    let n := (x.members.filter fun m => m.state == some .current).length
    exec (.windowGet q [winToByte w]) s = .next (answered q .done
      ([winToByte w, match x.state with | .disabled => (0 : Byte) | .enabled => 1 | .draining => 2] ++
        leBytes 6 x.base ++ leBytes 4 x.size ++
        [policyBits x.writePolicy x.readPolicy x.lagPolicy x.autoRebuild,
         if x.state = .disabled then 0xFF else if 2 ≤ n then 0 else if n = 1 then 1 else 2,
         if x.state = .disabled then 0xFF
         else match x.members.filter (fun m => m.state == some .current) with
          | m :: _ => legToByte m.leg
          | [] => 0xFF,
         BitVec.ofNat 8 x.rotate, BitVec.ofNat 8 x.members.length] ++
        x.members.flatMap fun m => legToByte m.leg :: leBytes 6 m.base)
      (heard 0x11 q [winToByte w] s))

/-- WINDOW_ENABLE completes by the first condition of R11 that holds, with the seeding of R12; answered DONE it has the effects of
`EnablingSeedsTheSlots`. -/
def Obligations.WindowEnableAnswersByItsTable : Prop :=
  ∀ (s : State) (q : Byte) (w : WinIx) (seed : Seed) (b : Byte), Listening s → s.port.progress = .none →
    (seed = .all ∧ b = 0xFF ∨ ∃ l, seed = .leg l ∧ b = legToByte l) →
    let H := heard 0x12 q [winToByte w, b] s
    let answer := exec (.windowEnable q [winToByte w, b]) s
    ((s.win w).state ≠ .disabled → answer = .next (answered q .state [] H)) ∧
    ((s.win w).state = .disabled → RangeOverlaps s w → answer = .next (answered q .overlap [] H)) ∧
    ((s.win w).state = .disabled → ¬ RangeOverlaps s w →
      (∃ m ∈ (s.win w).members, ExtentOverlaps s (· ≠ w) m.leg m.base ((s.win w).size * 65536)) →
      answer = .next (answered q .overlap [] H)) ∧
    ((s.win w).state = .disabled → ¬ RangeOverlaps s w →
      (¬ ∃ m ∈ (s.win w).members, ExtentOverlaps s (· ≠ w) m.leg m.base ((s.win w).size * 65536)) →
      ((∀ m, Considered (s.win w) seed m → (s.leg m.leg).state ≠ .up) → answer = .next (answered q .seed [] H)) ∧
      ((∃ m, Considered (s.win w) seed m ∧ (s.leg m.leg).state = .up) →
        (∀ m, Considered (s.win w) seed m → (s.leg m.leg).state = .up → ¬ Fits s m.leg m.base (s.win w).size) →
        answer = .next (answered q .capacity [] H)) ∧
      ((∃ m, Considered (s.win w) seed m ∧ (s.leg m.leg).state = .up ∧ Fits s m.leg m.base (s.win w).size) →
        answer = .next (answered q .done [] (react (enabled w seed H)))))

/-- The effects of an enable: the window ENABLED with its pointer at 0; each seeded slot CURRENT and bound to its leg's serial, every
other STALE, WHOLE and unbound; the records in their order; without auto-rebuild nothing else changes but the notice that is due. With it,
each STALE member whose leg is UP, whose extent fits and which has no job gets an AUTO job at the queue's tail, in list order, or
AUTO_QUEUE_FULL where the queue holds 8 jobs. That CAPACITY_MISMATCH is posted for the members that the seed considers, and for no other, is
log entry 21, the model's choice (unsafe). -/
def Obligations.EnablingSeedsTheSlots : Prop :=
  ∀ (s : State) (w : WinIx) (seed : Seed),
    let x := s.win w
    let ms := x.members.map (seededMember s x seed)
    let seeded := { s.setWin w { x with state := .enabled, rotate := 0, members := ms } with
      events :=
        ((((considered x seed).filter fun m => isUp s m.leg && !seedable s x m).map fun m =>
            EventRec.capacityMismatch w m.leg (capacityOf s m.leg)) ++
          (ms.map fun m => EventRec.memberChange w m.leg .seed m.state) ++
          [EventRec.windowHealth w none
            (if 2 ≤ (ms.filter fun m => m.state == some .current).length then .prot
             else if (ms.filter fun m => m.state == some .current).length = 1 then .exposed else .lost)]).foldl
          EventUnit.offer s.events }
    (∀ m, (m ∈ considered x seed ↔ Considered x seed m) ∧
      (seedable s x m = true ↔ (s.leg m.leg).state = .up ∧ Fits s m.leg m.base x.size)) ∧
    ((enabled w seed s).win w = { x with state := .enabled, rotate := 0, members := ms }) ∧
    (∀ m, m ∈ x.members → Considered x seed m → (s.leg m.leg).state = .up → Fits s m.leg m.base x.size →
      seededMember s x seed m =
        { m with state := some .current, whole := false, serial := (s.leg m.leg).identity.map (·.serial) }) ∧
    (∀ m, m ∈ x.members → ¬ (Considered x seed m ∧ (s.leg m.leg).state = .up ∧ Fits s m.leg m.base x.size) →
      seededMember s x seed m = { m with state := some .stale, whole := true, serial := none }) ∧
    (x.autoRebuild = false → enabled w seed s = { seeded with notice := Notice.full }) ∧
    (x.autoRebuild = true → (x.members.map (·.leg)).Nodup →
      enabled w seed s = { autoQueuedAll w seeded with notice := Notice.full })

/-- WINDOW_DISABLE completes: a DISABLED window is answered STATE and a DRAINING one BUSY; an ENABLED one becomes DRAINING, its queued
jobs leave in queue order with JOB_ENDED DRAINING, the running one first, by the demotion of its target; the answer is DONE if nothing is
outstanding (the drain then completes at once: DISABLED, slots unbound, entries freed, pointer 0, WINDOW_DISABLED) and ACCEPTED otherwise. -/
def Obligations.WindowDisableStartsTheDrain : Prop :=
  (∀ (s : State) (q : Byte) (w : WinIx), Listening s → s.port.progress = .none →
    let H := heard 0x13 q [winToByte w] s
    let answer := exec (.windowDisable q [winToByte w]) s
    ((s.win w).state = .disabled → answer = .next (answered q .state [] H)) ∧
    ((s.win w).state = .draining → answer = .next (answered q .busy [] H)) ∧
    ((s.win w).state = .enabled → outstanding (startDrain w H) w = false →
      answer = .next (answered q .done [] (react (completeDrain w (startDrain w H))))) ∧
    ((s.win w).state = .enabled → outstanding (startDrain w H) w = true →
      answer = .next (answered q .accepted [] (react (startDrain w H))))) ∧
  (∀ (s : State) (w : WinIx), ((startDrain w s).win w).state = .draining ∧ (∀ j ∈ (startDrain w s).jobs, j.window ≠ w)) ∧
  (∀ (s : State) (w : WinIx), (∀ j, runningJob s = some j → j.window ≠ w) →
    startDrain w s = { s.setWin w { s.win w with state := .draining } with
      jobs := s.jobs.filter fun j => j.window != w
      events := ((s.jobs.filter fun j => j.window == w).map fun j =>
        EventRec.jobEnded j.window j.target .draining j.number).foldl EventUnit.offer s.events
      notice := Notice.full }) ∧
  (∀ (s : State) (w : WinIx) (j : Job), runningJob s = some j → j.window = w →
    let D := demote w j.target .rebuildAborted .draining
      { s.setWin w { s.win w with state := .draining } with notice := Notice.full }
    startDrain w s = { D with
      jobs := D.jobs.filter fun k => k.window != w
      events := ((D.jobs.filter fun k => k.window == w).map fun k =>
        EventRec.jobEnded k.window k.target .draining k.number).foldl EventUnit.offer D.events }) ∧
  (∀ (s : State) (w : WinIx), completeDrain w s =
    { s.setWin w { s.win w with
        state := .disabled, rotate := 0
        members := (s.win w).members.map fun m => { m with state := none, whole := false, serial := none } } with
      store := s.store.filter fun e => e.window != w
      events := s.events.offer (.windowDisabled w)
      notice := Notice.full })

/-- DRAIN_COMPLETE completes: a DRAINING window to which no tracked write, lag write, held write or tracked read belongs becomes
DISABLED, its slots unbound, its stale entries freed, its pointer 0, with WINDOW_DISABLED; any other window is left as it is. -/
def Obligations.DrainCompletesWhenNothingIsOutstanding : Prop :=
  (∀ (s : State) (w : WinIx), (s.win w).state ≠ .draining ∨ outstanding s w = true →
    exec (.drainComplete w) s = .next (react s)) ∧
  (∀ (s : State) (w : WinIx), (s.win w).state = .draining → outstanding s w = false →
    exec (.drainComplete w) s = .next (react
      { s.setWin w { s.win w with
          state := .disabled, rotate := 0
          members := (s.win w).members.map fun m => { m with state := none, whole := false, serial := none } } with
        store := s.store.filter fun e => e.window != w
        events := s.events.offer (.windowDisabled w)
        notice := Notice.full })) ∧
  (∀ (s : State) (w : WinIx), outstanding s w = true ↔
    (∃ e ∈ s.writes, e.window = some w) ∨ (∃ l : LegIx, ∃ r ∈ (s.leg l).lag, r.kind = .write ∧ ∃ n, r.owner = .write n (some w)) ∨
    (∃ n ∈ s.hold, ∃ e, findWrite s n = some e ∧ e.window = some w) ∨ (∃ e ∈ s.reads, e.window = some w))

/-- WINDOW_RESEED completes: by the first condition of R19; when answered DONE the named slot is CURRENT and bound to its leg's serial,
every other slot is WHOLE, the window's slots have no stale entries, and RESEED and the change from LOST to EXPOSED are posted in that
order; with auto-rebuild the AUTO jobs of R14 follow. -/
def Obligations.WindowReseedTakesTheNamedCopy : Prop :=
  (∀ (s : State) (q : Byte) (w : WinIx) (l : LegIx), Listening s → s.port.progress = .none →
    let H := heard 0x14 q [winToByte w, legToByte l] s
    let answer := exec (.windowReseed q [winToByte w, legToByte l]) s
    let lost := ∀ m ∈ (s.win w).members, m.state ≠ some .current
    ((s.win w).state ≠ .enabled ∨ ¬ lost → answer = .next (answered q .state [] H)) ∧
    ((s.win w).state = .enabled → lost → memberOf s w l = none → answer = .next (answered q .arg [] H)) ∧
    (∀ m, (s.win w).state = .enabled → lost → memberOf s w l = some m →
      ((s.leg l).state ≠ .up → answer = .next (answered q .seed [] H)) ∧
      ((s.leg l).state = .up → ¬ Fits s l m.base (s.win w).size → answer = .next (answered q .capacity [] H)) ∧
      ((s.leg l).state = .up → Fits s l m.base (s.win w).size →
        answer = .next (answered q .done [] (react (reseed w l H)))))) ∧
  (∀ (s : State) (w : WinIx) (l : LegIx),
    (reseed w l s).win w = { s.win w with members := (s.win w).members.map fun m =>
      if m.leg = l then { m with state := some .current, whole := false, serial := (s.leg l).identity.map (·.serial) }
      else { m with whole := true } } ∧
    (memberOf s w l ≠ none → ∀ e, e ∈ (reseed w l s).store ↔
      e ∈ s.store ∧ ¬ (e.window = w ∧ ∃ m ∈ (s.win w).members, m.leg = e.leg))) ∧
  (∀ (s : State) (w : WinIx) (l : LegIx), (s.win w).state = .enabled → (∀ m ∈ (s.win w).members, m.state ≠ some .current) →
    memberOf s w l ≠ none → ((s.win w).members.map (·.leg)).Nodup →
    let taken := { s.setWin w { s.win w with members := (s.win w).members.map fun m =>
          if m.leg = l then { m with state := some .current, whole := false, serial := (s.leg l).identity.map (·.serial) }
          else { m with whole := true } } with
      store := s.store.filter fun e => !(e.window == w && (s.win w).members.any fun m => m.leg == e.leg)
      events := (s.events.offer (.memberChange w l .reseed (some .current))).offer (.windowHealth w (some .lost) .exposed)
      notice := Notice.full }
    ((s.win w).autoRebuild = false → reseed w l s = taken) ∧
    ((s.win w).autoRebuild = true → reseed w l s = autoQueuedAll w taken))

/-- PASS_SET completes: outside a datapath reset the setting is replaced by the leg named, whatever its state, or by NONE. -/
def Obligations.PassSetReplacesTheSetting : Prop :=
  ∀ (s : State) (q : Byte), Listening s → s.port.progress = .none →
    (∀ l : LegIx, exec (.passSet q [legToByte l]) s = .next (answered q .done []
      (react { heard 0x15 q [legToByte l] s with
        passLeg := some l, notice := { s.notice with work := true, head := true } }))) ∧
    exec (.passSet q [0xFF]) s = .next (answered q .done []
      (react { heard 0x15 q [0xFF] s with passLeg := none, notice := { s.notice with work := true, head := true } }))

/-! ## Members -/

/-- MEMBER_ADD completes by the first condition of R25; answered DONE it appends a STALE, WHOLE, unbound member, posts ADDED, and then
queues an AUTO job, posts CAPACITY_MISMATCH or does nothing more, as R26 gives. -/
def Obligations.MemberAddAppendsAStaleMember : Prop :=
  (∀ (s : State) (q : Byte) (w : WinIx) (l : LegIx) (base : Nat), Listening s → s.port.progress = .none → base < 2 ^ 48 →
    base % 65536 = 0 →
    let args := winToByte w :: legToByte l :: leBytes 6 base
    let H := heard 0x20 q args s
    let answer := exec (.memberAdd q args) s
    let bytes := (s.win w).size * 65536
    ((s.win w).state ≠ .enabled → answer = .next (answered q .state [] H)) ∧
    ((s.win w).state = .enabled → (∃ m ∈ (s.win w).members, m.leg = l) → answer = .next (answered q .arg [] H)) ∧
    ((s.win w).state = .enabled → (∀ m ∈ (s.win w).members, m.leg ≠ l) →
      (4 ≤ (s.win w).members.length → answer = .next (answered q .full [] H)) ∧
      ((s.win w).members.length < 4 → ExtentOverlaps s (fun _ => True) l base bytes →
        answer = .next (answered q .overlap [] H)) ∧
      ((s.win w).members.length < 4 → ¬ ExtentOverlaps s (fun _ => True) l base bytes →
        answer = .next (answered q .done [] (react (addMember w l base H)))))) ∧
  (∀ (s : State) (w : WinIx) (l : LegIx) (base : Nat),
    let added := { s.setWin w { s.win w with members := (s.win w).members ++
        [{ leg := l, base := base, state := some .stale, whole := true, serial := none }] } with
      events := s.events.offer (.memberChange w l .added (some .stale)) }
    ((s.leg l).state ≠ .up → addMember w l base s = { added with notice := Notice.full }) ∧
    ((s.leg l).state = .up → ¬ Fits s l base (s.win w).size → addMember w l base s = { added with
      events := added.events.offer (.capacityMismatch w l (((s.leg l).identity.map (·.capacity)).getD 0)), notice := Notice.full }) ∧
    ((s.leg l).state = .up → Fits s l base (s.win w).size → (s.win w).autoRebuild = false →
      addMember w l base s = { added with notice := Notice.full }) ∧
    ((s.leg l).state = .up → Fits s l base (s.win w).size → (s.win w).autoRebuild = true → s.jobs.length < 8 →
      addMember w l base s = { added with
        jobs := s.jobs ++ [newJob s.nextJob w l .auto], nextJob := s.nextJob + 1, notice := Notice.full }) ∧
    ((s.leg l).state = .up → Fits s l base (s.win w).size → (s.win w).autoRebuild = true → 8 ≤ s.jobs.length →
      addMember w l base s = { added with events := added.events.offer (.autoQueueFull w l), notice := Notice.full }))

/-- MEMBER_REMOVE completes by the first condition of R27; answered DONE it takes the steps of R28 in their order and then R29. Afterwards
the member is out of the list; no tracked write of the window owes or counts the leg or has an address there, no read has one; no unsent write
of the window waits on the leg; the slot has no stale entry and no job. The rotate pointer is 0 when the list closes up; the records are
JOB_ENDED REMOVED for a job of the slot, MEMBER_CHANGE REMOVED and the change of health; writes that an abort releases are issued between the list
and the records. Each read of the window on the leg is then taken back, unsent out of the direct queue, sent with its entry orphaned, and
resumed elsewhere. The model's choices: the released writes are issued between the list and the records (log entry 24, DEDUCED); the leg's
address leaves the tracked writes and reads (27, DEDUCED); the reads are taken back after the list has closed up and the records are offered (29,
DEDUCED), several in acceptance order (38); a queued job leaves by its slot, not by its number (41). -/
def Obligations.MemberRemoveClearsTheMember : Prop :=
  (∀ (s : State) (q : Byte) (w : WinIx) (l : LegIx), Listening s → s.port.progress = .none →
    let H := heard 0x21 q [winToByte w, legToByte l] s
    let answer := exec (.memberRemove q [winToByte w, legToByte l]) s
    ((s.win w).state ≠ .enabled → answer = .next (answered q .state [] H)) ∧
    ((s.win w).state = .enabled → memberOf s w l = none → answer = .next (answered q .arg [] H)) ∧
    (∀ m, (s.win w).state = .enabled → memberOf s w l = some m →
      let last := (s.win w).members.length = 1 ∨
        (m.state = some .current ∧ ((s.win w).members.filter fun k => k.state == some .current).length = 1)
      (last → answer = .next (answered q .last [] H)) ∧
      (¬ last → answer = .next (answered q .done [] (react (removeMember w l H)))))) ∧
  (∀ (s : State) (w : WinIx) (l : LegIx), (s.writes.map (·.ref)).Nodup →
    let t := removeMember w l s
    ((t.win w).members.map fun m => (m.leg, m.base)) =
      ((s.win w).members.filter fun m => m.leg != l).map (fun m => (m.leg, m.base)) ∧
    (∀ e ∈ t.writes, e.window = some w → l ∉ e.owed ∧ l ∉ e.acked ∧ addrOn e.legAddrs l = none) ∧
    (∀ e ∈ t.reads, e.window = some w → addrOn e.legAddrs l = none) ∧
    (∀ r ∈ (t.leg l).direct ++ (t.leg l).lag, r.isWriteOf w = false) ∧
    (∀ e ∈ t.store, ¬ (e.window = w ∧ e.leg = l)) ∧
    ((s.jobs.filter fun j => j.window == w && j.target == l).length ≤ 1 → (∀ j ∈ s.jobs.tail, j.running = false) →
      ∀ j ∈ t.jobs, ¬ (j.window = w ∧ j.target = l))) ∧
  (∀ (s : State) (w : WinIx) (l : LegIx),
    let dropped := { s with writes := s.writes.map fun e => if e.window = some w
      then { e with owed := legErase l e.owed, acked := legErase l e.acked, legAddrs := e.legAddrs.filter fun a => a.1 != l } else e }
    clearRemoved w l s = decideAll
      (((s.writes.filter fun e => e.window == some w && e.owed.contains l).filter fun e => e.owed.all fun k => k == l).map (·.ref))
      dropped) ∧
  (∀ (s : State) (w : WinIx) (l : LegIx),
    let C := clearRemoved w l s
    let freed := { C.setLeg l { C.leg l with
        direct := (C.leg l).direct.filter fun r => !r.isWriteOf w
        lag := (C.leg l).lag.filter fun r => !r.isWriteOf w } with
      store := C.store.filter fun e => !(e.window == w && e.leg == l)
      notice := Notice.full }
    let closed (u : State) := u.setWin w { u.win w with members := (u.win w).members.filter fun m => m.leg != l, rotate := 0 }
    let changed (u : State) := (closed u).win w
    let finished (v u : State) := takeBackReads w l (dropReadAddr w l
      (let p := postChange w (healthOf (s.win w)) (healthOf (changed u)) (post (.memberChange w l .removed none) v)
       if isSource s w l then restartPass p else p))
    ((∀ j ∈ s.jobs, ¬ (j.window = w ∧ j.target = l)) → removeMember w l s = (finished (closed freed) freed).raise) ∧
    (∀ j, s.jobs.find? (fun j => j.window == w && j.target == l) = some j →
      (j.running = false → (∀ k, runningJob s = some k → ¬ (k.window = w ∧ k.target = l)) →
        let u := { freed with
          jobs := s.jobs.filter fun k => !(k.window == w && k.target == l)
          events := C.events.offer (.jobEnded w l .removed j.number) }
        removeMember w l s = (finished (closed u) u).raise) ∧
      (runningJob s = some j →
        let u := post (.jobEnded w l .removed j.number) (abortJob freed)
        removeMember w l s = (finished (resumeRelease (closed u)) u).raise))) ∧
  (∀ (s : State) (w : WinIx) (l : LegIx),
    dropReadAddr w l s = { s with
      reads := s.reads.map fun e =>
        if e.window = some w then { e with legAddrs := e.legAddrs.filter fun a => a.1 != l } else e } ∧
    takeBackReads w l s = ((s.reads.filter fun e => e.current == some l && e.window == some w).map (·.ref)).foldl
      (fun u n => failRead n l (dropRead n l u)) s ∧
    ∀ n, dropRead n l s = { s.setLeg l { s.leg l with
        direct := (s.leg l).direct.filter fun r => r.owner != .read n
        inflight := (s.leg l).inflight.map fun f =>
          if f.owner = some (.read n) ∧ f.condition = .live then { f with condition := .orphaned, owner := none } else f } with
      notice := Notice.full })

/-- MEMBER_GET, STALE_COUNT and STALE_LIST complete in every state for a member of the list, with the layouts of R191 and R182 and no
effect; for a leg that is not in the list, a window over 15 and a leg over 3 each is answered ARG. -/
def Obligations.SlotQueriesReportTheSlot : Prop :=
  (∀ (s : State) (q b c : Byte), Listening s → 15 < b.toNat ∨ 3 < c.toNat →
    exec (.memberGet q [b, c]) s = .next (answered q .arg [] (heard 0x22 q [b, c] s)) ∧
    exec (.staleCount q [b, c]) s = .next (answered q .arg [] (heard 0x50 q [b, c] s)) ∧
    ∀ start : Nat, exec (.staleList q (b :: c :: leBytes 4 start)) s =
      .next (answered q .arg [] (heard 0x51 q (b :: c :: leBytes 4 start) s))) ∧
  ∀ (s : State) (q : Byte) (w : WinIx) (l : LegIx), Listening s →
    let a := [winToByte w, legToByte l]
    (∀ m, memberOf s w l = some m →
      exec (.memberGet q a) s = .next (answered q .done
        ([BitVec.ofNat 8 (((s.win w).members.findIdx? fun k => k.leg == l).getD 0)] ++ leBytes 6 m.base ++
          [match m.state with | some .current => (0 : Byte) | some .stale => 1 | some .rebuilding => 2 | none => 0xFF,
           (if m.whole then (1 : Byte) else 0) ||| (if m.serial.isSome then 2 else 0) |||
            (if (leadOf (s.win w)).any (fun k => k.leg == l) then 4 else 0)] ++
          leBytes 4 ((m.serial.map (·.toNat)).getD 0) ++ leBytes 2 (staleList s w l).length ++
          (match s.jobs.find? fun j => j.window == w && j.target == l with
            | some j => [if j.running then (2 : Byte) else 1, j.number]
            | none => [0, 0])) (heard 0x22 q a s)) ∧
      exec (.staleCount q a) s = .next (answered q .done
        (leBytes 2 (staleList s w l).length ++ [if m.whole then (1 : Byte) else 0] ++ leBytes 2 s.store.length)
        (heard 0x50 q a s)) ∧
      ∀ start : Nat, start < 16777216 →
        let gs := ((staleList s w l).filter fun g => decide (start ≤ g)).take 16
        exec (.staleList q (a ++ leBytes 4 start)) s = .next (answered q .done
          ([if m.whole then (1 : Byte) else 0, BitVec.ofNat 8 gs.length] ++ gs.flatMap (leBytes 4))
          (heard 0x51 q (a ++ leBytes 4 start) s))) ∧
    (memberOf s w l = none →
      exec (.memberGet q a) s = .next (answered q .arg [] (heard 0x22 q a s)) ∧
      exec (.staleCount q a) s = .next (answered q .arg [] (heard 0x50 q a s)) ∧
      ∀ start : Nat, exec (.staleList q (a ++ leBytes 4 start)) s =
        .next (answered q .arg [] (heard 0x51 q (a ++ leBytes 4 start) s)))

/-- A demotion of a CURRENT or REBUILDING slot makes it STALE, leaves no tracked write of the window owing its leg, records the segment
of each write that owed it unless the slot is WHOLE, and takes the window's unsent writes out of its leg's lag and direct queues; a slot
in any other state is left alone. A source slot's segment is restarted; a REBUILDING slot's job is aborted, and the writes that this releases are
issued before the answers; the entries that owed the leg alone are then answered; and JOB_ENDED of an aborted job, MEMBER_CHANGE and the change
of health are posted in that order. If the window is now LOST, its REBUILDING slot is demoted in turn with NO_SOURCE and set WHOLE. A demotion of
R48 part 3, of a release or of a datapath reset is the same, but leaves the released writes in the hold queue. The model's choices: the
released writes are issued before the answers of step 6 (log entry 24, DEDUCED); R33 sets WHOLE and frees the entries before the additions of
step 2 (15, DEDUCED); the second demotion follows the last step of the first (37). -/
def Obligations.DemotionRecordsWhatTheSlotMayHaveMissed : Prop :=
  (∀ (s : State) (w : WinIx) (l : LegIx) (c : MemberCause) (jc : JobCause), (s.writes.map (·.ref)).Nodup →
    slotState s w l = some .current ∨ slotState s w l = some .rebuilding →
    slotState (demote w l c jc s) w l = some .stale ∧
    (∀ e ∈ (demote w l c jc s).writes, e.window = some w → l ∉ e.owed) ∧
    (∀ e ∈ s.writes, e.window = some w → l ∈ e.owed → ∀ g, e.segment = some g →
      { window := w, leg := l, segment := g } ∈ (demote w l c jc s).store ∨
        ∃ m, memberOf (demote w l c jc s) w l = some m ∧ m.whole = true) ∧
    (∀ r ∈ ((demote w l c jc s).leg l).direct, r.isWriteOf w = false) ∧
    (∀ r ∈ ((demote w l c jc s).leg l).lag, r.isWriteOf w = false)) ∧
  (∀ (issue : State → State) (s : State) (w : WinIx) (l : LegIx) (c : MemberCause) (jc : JobCause) (b : Bool),
    slotState s w l ≠ some .current → slotState s w l ≠ some .rebuilding → demoteOne issue w l c jc b s = s) ∧
  (∀ (issue : State → State) (s : State) (w : WinIx) (l : LegIx) (c : MemberCause) (jc : JobCause) (b : Bool),
    let es := s.writes.filter fun e => e.window == some w && e.owed.contains l
    let slot := { s.setWin w { s.win w with members := (s.win w).members.map fun m =>
        if m.leg = l then { m with state := some .stale, whole := m.whole || b } else m } with
      store := if b then s.store.filter fun e => !(e.window == w && e.leg == l) else s.store
      notice := Notice.full }
    let U := discardWrites w l (clearAndRecord w l es slot)
    let emptied := (es.filter fun e => e.owed.all fun k => k == l).map (·.ref)
    (slotState s w l = some .current →
      let V := if isSource U w l then restartPass U else U
      demoteOne issue w l c jc b s = postChange w (healthOf (s.win w)) (healthOf (V.win w))
        (post (.memberChange w l c (some .stale)) (decideAll emptied V))) ∧
    (∀ j, slotState s w l = some .rebuilding → runningJob s = some j →
      demoteOne issue w l c jc b s = postChange w (healthOf (s.win w)) (healthOf ((abortJob U).win w))
        (post (.memberChange w l c (some .stale)) (post (.jobEnded j.window j.target jc j.number)
          (decideAll emptied (issue (abortJob U))))))) ∧
  (∀ (s : State) (w : WinIx) (l : LegIx),
    clearAndRecord w l [] s = s ∧
    (∀ (e : WriteEntry) (es : List WriteEntry) (g : Nat), e.segment = some g → clearAndRecord w l (e :: es) s =
      clearAndRecord w l es (addStale w l g { s with
        writes := s.writes.map fun x => if x.ref == e.ref then { x with owed := legErase l x.owed } else x
        notice := { s.notice with work := true } })) ∧
    discardWrites w l s = { s.setLeg l { s.leg l with
        direct := (s.leg l).direct.filter fun r => !r.isWriteOf w
        lag := (s.leg l).lag.filter fun r => !r.isWriteOf w } with notice := Notice.full } ∧
    (∀ j, runningJob s = some j → abortJob s = { abandonChunks s with
      jobs := (abandonChunks s).jobs.tail
      writes := s.writes.map fun e => if e.held = .held then { e with held := .released } else e
      notice := { (abandonChunks s).notice with work := true, head := true } }) ∧
    (∀ (old : Option Health) (h : Health),
      postChange w old none s = s ∧ postChange w (some h) (some h) s = s ∧
      (old ≠ some h → postChange w old (some h) s = { s with events := s.events.offer (.windowHealth w old h) })) ∧
    (isSource s w l = true ↔ ∃ j, runningJob s = some j ∧ j.window = w ∧ j.source = some l)) ∧
  (∀ x : Window,
    let n := (x.members.filter fun m => m.state == some .current).length
    (x.state = .disabled → healthOf x = none ∧ leadOf x = none) ∧
    (x.state ≠ .disabled → healthOf x = some (if 2 ≤ n then .prot else if n = 1 then .exposed else .lost) ∧
      leadOf x = (x.members.filter fun m => m.state == some .current).head?) ∧
    (isLost x = true ↔ x.state ≠ .disabled ∧ ∀ m ∈ x.members, m.state ≠ some .current)) ∧
  (∀ (s : State) (w : WinIx) (l : LegIx) (c : MemberCause) (jc : JobCause),
    let t := demoteOne resumeRelease w l c jc false s
    ((∀ j, runningJob t = some j → j.window = w → isLost (t.win w) = false) → demote w l c jc s = t) ∧
    (∀ j, runningJob t = some j → j.window = w → isLost (t.win w) = true →
      demote w l c jc s = demoteOne resumeRelease w j.target .rebuildAborted .noSource true t ∧
      (slotState t w j.target = some .rebuilding →
        slotState (demote w l c jc s) w j.target = some .stale ∧ isWhole (demote w l c jc s) w j.target = true ∧
        staleList (demote w l c jc s) w j.target = []))) ∧
  (∀ (s : State) (w : WinIx) (l : LegIx) (c : MemberCause) (jc : JobCause),
    let t := demoteOne (fun u => u) w l c jc false s
    ((∀ j, runningJob t = some j → j.window = w → isLost (t.win w) = false) → demoteHolding w l c jc s = t) ∧
    (∀ j, runningJob t = some j → j.window = w → isLost (t.win w) = true →
      demoteHolding w l c jc s = demoteOne (fun u => u) w j.target .rebuildAborted .noSource true t))

/-! ## Legs -/

/-- LEG_ENABLE and LEG_DISABLE complete: an OFF or FAULTED leg is enabled to IDENTIFYING, with the identity request sent and its timer
started, if READY is high, and to DOWN if it is low; a leg in another state is refused STATE. A disabled leg enters OFF, from UP by
leaving UP; in OFF nothing changes. -/
def Obligations.LegCommandsMoveTheLeg : Prop :=
  ∀ (s : State) (q : Byte) (l : LegIx), Listening s → s.port.progress = .none →
    let p := s.leg l
    let E := heard 0x30 q [legToByte l] s
    let D := heard 0x31 q [legToByte l] s
    let on := exec (.legEnable q [legToByte l]) s
    let off := exec (.legDisable q [legToByte l]) s
    (p.state = .down ∨ p.state = .identifying ∨ p.state = .up → on = .next (answered q .state [] E)) ∧
    (p.state = .off ∨ p.state = .faulted → p.ready = true → on = .next (answered q .done [] (react
      { E.setLeg l { p with state := .identifying, identityTimer := some p.timeout, sent := some .identityRequest } with
        events := s.events.offer (.legChange l .enabled p.state .identifying), notice := Notice.full }))) ∧
    (p.state = .off ∨ p.state = .faulted → p.ready = false → on = .next (answered q .done [] (react
      { E.setLeg l { p with state := .down } with
        events := s.events.offer (.legChange l .enabled p.state .down), notice := Notice.full }))) ∧
    (p.state = .off → off = .next (answered q .done [] (react D))) ∧
    (p.state = .down ∨ p.state = .faulted → off = .next (answered q .done [] (react
      { D.setLeg l { p with state := .off } with
        events := s.events.offer (.legChange l .disabled p.state .off), notice := Notice.full }))) ∧
    (p.state = .identifying → off = .next (answered q .done [] (react
      { D.setLeg l { p with state := .off, identityTimer := none } with
        events := s.events.offer (.legChange l .disabled .identifying .off), notice := Notice.full }))) ∧
    (p.state = .up → off = .next (answered q .done [] (react (leaveUp l .off .disabled D))))

/-- LEG_GET completes with the 25 bytes of R182 note 3 and no effect; LEG_SET_TIMEOUT completes and replaces only the timeout setting,
so the entries in flight keep the timeouts they were sent with. -/
def Obligations.LegGetAndTimeoutSetting : Prop :=
  ∀ (s : State) (q : Byte) (l : LegIx), Listening s →
    let p := s.leg l
    let n (c : Condition) := BitVec.ofNat 8 (p.inflight.filter fun f => f.condition == c).length
    exec (.legGet q [legToByte l]) s = .next (answered q .done
      ([match p.state with | .off => (0 : Byte) | .down => 1 | .identifying => 2 | .up => 3 | .faulted => 4,
        if p.ready then 1 else 0, if p.identity.isSome then 1 else 0] ++
        (match p.identity with
          | some i => leBytes 4 i.serial.toNat ++ leBytes 4 i.capacity ++ [i.revision]
          | none => [0, 0, 0, 0, 0, 0, 0, 0, 0]) ++
        leBytes 2 p.timeout ++
        [BitVec.ofNat 8 p.direct.length, BitVec.ofNat 8 p.lag.length, BitVec.ofNat 8 p.copy.length,
         BitVec.ofNat 8 p.inflight.length, n .live, n .orphaned, n .closing, n .expired, p.nextNumber,
         BitVec.ofNat 8 p.arbiter.val, BitVec.ofNat 8 p.failures])
      (heard 0x32 q [legToByte l] s)) ∧
    ∀ us : Nat, 1 ≤ us → us ≤ 4095 → s.port.progress = .none →
      exec (.legSetTimeout q (legToByte l :: leBytes 2 us)) s = .next (answered q .done []
        ((heard 0x33 q (legToByte l :: leBytes 2 us) s).setLeg l { p with timeout := us }))

/-- READY_RISE and READY_FALL complete in every leg state: a rise takes a DOWN leg to IDENTIFYING and does nothing else in the others; a
fall takes an IDENTIFYING or FAULTED leg to DOWN, makes an UP leg leave UP, and does nothing else in OFF and DOWN. -/
def Obligations.ReadyChangesMoveTheLeg : Prop :=
  ∀ (s : State) (l : LegIx),
    let p := s.leg l
    (p.state = .down → exec (.readyRise l) s = .next (react
      { s.setLeg l { p with ready := true, state := .identifying, identityTimer := some p.timeout, sent := some .identityRequest } with
        events := s.events.offer (.legChange l .readyRise .down .identifying), notice := Notice.full })) ∧
    (p.state ≠ .down → exec (.readyRise l) s = .next (react (s.setLeg l { p with ready := true }))) ∧
    (p.state = .off ∨ p.state = .down → exec (.readyFall l) s = .next (react (s.setLeg l { p with ready := false }))) ∧
    (p.state = .identifying → exec (.readyFall l) s = .next (react
      { s.setLeg l { p with ready := false, state := .down, identityTimer := none } with
        events := s.events.offer (.legChange l .readyFall .identifying .down), notice := Notice.full })) ∧
    (p.state = .faulted → exec (.readyFall l) s = .next (react
      { s.setLeg l { p with ready := false, state := .down } with
        events := s.events.offer (.legChange l .readyFall .faulted .down), notice := Notice.full })) ∧
    (p.state = .up → exec (.readyFall l) s = .next (react (leaveUp l .down .readyFall (s.setLeg l { p with ready := false }))))

/-- IDENTITY_ANSWER and IDENTITY_TIMEOUT complete. In IDENTIFYING a well-formed answer stops the timer, replaces the record, clears the
failure count, takes the leg UP and brings the visits of its slots; an error or a capacity out of range faults the leg, as does the
timer's expiry, with one timeout counted. In any other state an answer is one stray response, and an expiry nothing. That an answer does
nothing while RESET is asserted is log entry 8, the model's choice (unsafe). -/
def Obligations.IdentityExchangeEndsUpOrFaulted : Prop :=
  ∀ (s : State) (l : LegIx),
    let p := s.leg l
    (s.resetAsserted = true → ∀ a, exec (.identityAnswer l a) s = .next s) ∧
    (s.resetAsserted = false → p.state ≠ .identifying → ∀ a,
      exec (.identityAnswer l a) s = .next (react (count l .stray s))) ∧
    (s.resetAsserted = false → p.state = .identifying → ∀ v c r, 1 ≤ c → c ≤ 268435456 →
      exec (.identityAnswer l (.record v c r)) s = .next (react (visitSlots l
        { s.setLeg l { p with
            state := .up, identity := some { serial := v, capacity := c, revision := r }, failures := 0, identityTimer := none } with
          events := s.events.offer (.legChange l .identified .identifying .up), notice := Notice.full }))) ∧
    (s.resetAsserted = false → p.state = .identifying → ∀ a,
      (a = .error ∨ ∃ v c r, a = .record v c r ∧ (c = 0 ∨ 268435456 < c)) →
      exec (.identityAnswer l a) s = .next (react
        { s.setLeg l { p with state := .faulted, identityTimer := none } with
          events := s.events.offer (.legChange l .identityError .identifying .faulted), notice := Notice.full })) ∧
    (p.state = .identifying → exec (.identityTimeout l) s = .next (react (count l .timeouts
      { s.setLeg l { p with state := .faulted, identityTimer := none } with
        events := s.events.offer (.legChange l .identityTimeout .identifying .faulted), notice := Notice.full }))) ∧
    (p.state ≠ .identifying → exec (.identityTimeout l) s = .next (react s))

/-- When a leg has arrived its slots are visited in ascending window index: the window not DISABLED, the slot STALE; a slot that is CURRENT or
REBUILDING is passed over. The visit of a STALE slot: a different serial sets it WHOLE, frees its entries and posts SERIAL_CHANGED. An extent over
capacity posts CAPACITY_MISMATCH, and the visit goes no further. A slot that fits, whose serial has not changed, that is not WHOLE and has no
entries, rejoins: it becomes CURRENT, bound to the serial, with MEMBER_CHANGE CLEAN_REJOIN and the change of health; if that ends the LOST
period of an ENABLED window with auto-rebuild, the AUTO jobs of R14 follow. Any other slot that fits stays STALE, and gets an AUTO job in an
ENABLED window that is not LOST, with auto-rebuild and no job for the slot. -/
def Obligations.ArrivalVisitsTheStaleSlot : Prop :=
  (∀ (s : State) (l : LegIx), visitSlots l s = (List.finRange 16).foldl (fun u w => visitWindow l u w) s) ∧
  (∀ (s : State) (l : LegIx) (w : WinIx),
    ((s.win w).state = .disabled ∨ memberOf s w l = none ∨ (s.leg l).identity = none → visitWindow l s w = s) ∧
    ∀ m i, memberOf s w l = some m → (s.leg l).identity = some i →
      (m.state ≠ some .stale → visitWindow l s w = s) ∧
      (m.state = some .stale → (s.win w).state ≠ .disabled → visitWindow l s w = visitSlot w m i s)) ∧
  ∀ (s : State) (w : WinIx) (m : Member) (i : Identity), memberOf s w m.leg = some m → m.state = some .stale →
    (s.leg m.leg).identity = some i →
    let u := visitSlot w m i s
    let changed := ∃ v, m.serial = some v ∧ v ≠ i.serial
    let fits := Fits s m.leg m.base (s.win w).size
    let withSlot (f : Member → Member) := { s.win w with members := (s.win w).members.map fun k => if k.leg = m.leg then f k else k }
    let unlisted := s.store.filter fun e => !(e.window == w && e.leg == m.leg)
    let needs := (s.win w).state = .enabled ∧ isLost (s.win w) = false ∧ (s.win w).autoRebuild = true ∧
      ∀ j ∈ s.jobs, ¬ (j.window = w ∧ j.target = m.leg)
    let marked := { s.setWin w (withSlot fun k => { k with whole := true }) with
      store := unlisted, events := s.events.offer (.serialChanged w m.leg i.serial) }
    let current := withSlot fun k => { k with state := some .current, whole := false, serial := some i.serial }
    let rejoined := postChange w (healthOf (s.win w)) (healthOf current) { s.setWin w current with
      store := unlisted, events := s.events.offer (.memberChange w m.leg .cleanRejoin (some .current)), notice := Notice.full }
    (changed → slotState u w m.leg = some .stale ∧ (∃ k, memberOf u w m.leg = some k ∧ k.whole = true ∧ k.serial = m.serial) ∧
      staleList u w m.leg = []) ∧
    (changed → ¬ fits → u = { marked with events := marked.events.offer (.capacityMismatch w m.leg i.capacity) }) ∧
    (changed → fits → (needs → u = autoQueued w m.leg marked) ∧ (¬ needs → u = marked)) ∧
    (¬ changed → ¬ fits → u = { s with events := s.events.offer (.capacityMismatch w m.leg i.capacity) }) ∧
    (¬ changed → fits → m.whole = false → staleList s w m.leg = [] →
      memberOf u w m.leg = some { m with state := some .current, whole := false, serial := some i.serial } ∧
      (¬ (isLost (s.win w) = true ∧ (s.win w).state = .enabled ∧ (s.win w).autoRebuild = true) → u = rejoined) ∧
      (isLost (s.win w) = true → (s.win w).state = .enabled → (s.win w).autoRebuild = true →
        ((s.win w).members.map (·.leg)).Nodup → u = autoQueuedAll w rejoined)) ∧
    (¬ changed → fits → (m.whole = true ∨ staleList s w m.leg ≠ []) →
      (needs → u = autoQueued w m.leg s) ∧ (¬ needs → u = s))

/-- A leg that leaves UP is in its new state, its queues empty, with no LIVE entry and every number in its table still held; no tracked
pass-through write owes it, no read waits for it, each of its CURRENT and REBUILDING slots is STALE, and the identity record, timeout, next number,
arbiter position and failure count are kept. The parts come in this order: LEG_CHANGE, the table and the queues; the reads on the leg fail; the
engine loses a source; the LEG_LEFT demotions, in ascending window index (a REBUILDING slot's job ends TARGET_DOWN); the pass-through writes. That
the last four come in this order among themselves is log entry 23, the model's choice. -/
def Obligations.LeavingUpEmptiesTheLeg : Prop :=
  (∀ (s : State) (l : LegIx) (new : LegState) (c : LegCause), new ≠ .up →
    let p := s.leg l
    let u := leaveUp l new c s
    let t := u.leg l
    t.state = new ∧ t.direct = [] ∧ t.lag = [] ∧ t.copy = [] ∧ (∀ f ∈ t.inflight, f.condition ≠ .live) ∧
    t.inflight.map (·.number) = p.inflight.map (·.number) ∧ t.identity = p.identity ∧ t.timeout = p.timeout ∧
    t.nextNumber = p.nextNumber ∧ t.arbiter = p.arbiter ∧ t.failures = p.failures ∧ t.ready = p.ready ∧
    (∀ e ∈ u.writes, e.window = none → l ∉ e.owed) ∧ (∀ e ∈ u.reads, e.current ≠ some l) ∧
    ∀ w, slotState s w l = some .current ∨ slotState s w l = some .rebuilding → slotState u w l = some .stale) ∧
  (∀ (s : State) (l : LegIx) (new : LegState) (c : LegCause),
    let p := s.leg l
    let left := { s.setLeg l { p with
        state := new, direct := [], lag := [], copy := []
        inflight := p.inflight.map fun f =>
          if f.condition = .live then { f with condition := .orphaned, owner := none } else f } with
      events := s.events.offer (.legChange l c p.state new), notice := Notice.full }
    leaveUp l new c s = { clearPassLeg l (demoteLeg l (loseSource l (failReadsOn l left))) with notice := Notice.full }) ∧
  (∀ (s : State) (l : LegIx),
    failReadsOn l s = ((s.reads.filter fun e => e.current == some l).map (·.ref)).foldl (fun u n => failRead n l u) s ∧
    (∀ j, runningJob s = some j → j.source = some l → loseSource l s = restartPass s) ∧
    ((∀ j, runningJob s = some j → j.source ≠ some l) → loseSource l s = s) ∧
    demoteLeg l s = (List.finRange 16).foldl (fun u w => demote w l .legLeft .targetDown u) s ∧
    clearPassLeg l s = ((s.writes.filter fun e => e.window == none && e.owed.contains l).map (·.ref)).foldl
      (fun u n => decideEmptied n (clearOwed n l u)) s)

/-- LEG_SEND completes: when R137 lets the leg send, the first position from the arbiter's own whose queue holds a request gives the turn,
the head of the queue chosen leaves it with the next number and a LIVE entry whose timer runs, and the position follows the turn used;
otherwise nothing is sent. Which of two blocking queues the substitution turns to is log entry 18, the model's choice (unsafe). -/
def Obligations.LegSendsOneRequest : Prop :=
  ([0, 1, 2, 3, 4, 5, 6, 7].map turnQueue =
    [.direct, .direct, .direct, .direct, .lag, .lag, .copy, .copy]) ∧
  ∀ (s : State) (l : LegIx),
    let p := s.leg l
    let may := p.state = .up ∧ p.inflight.length < 16 ∧ (∀ f ∈ p.inflight, f.number ≠ p.nextNumber) ∧
      (p.direct ≠ [] ∨ p.lag ≠ [] ∨ p.copy ≠ [])
    (¬ may → exec (.legSend l) s = .next (react s)) ∧
    (may → ∃ k : Nat, k < 8 ∧ (∀ j < k, p.queue (turnQueue (p.arbiter + Fin.ofNat 8 j)) = []) ∧
      p.queue (turnQueue (p.arbiter + Fin.ofNat 8 k)) ≠ [] ∧
      let q := p.substitute 2 (turnQueue (p.arbiter + Fin.ofNat 8 k))
      ∃ (r : LegRequest) (rest : List LegRequest), p.queue q = r :: rest ∧
        let f : Flight :=
          { number := p.nextNumber, kind := r.kind, length := r.length
            beatsExpected := if r.kind = .read then some (beatsOf r.addr r.length) else none
            beatsTaken := 0, owner := some r.owner, timerRunning := true, timeout := p.timeout, condition := .live
            counted := false }
        let sent : LegPort :=
          { p.setQueue q rest with
            inflight := p.inflight ++ [f], nextNumber := p.nextNumber + 1, arbiter := p.arbiter + Fin.ofNat 8 k + 1
            spent := p.spent.filter (· != p.nextNumber), sent := some (.request p.nextNumber r) }
        exec (.legSend l) s = .next (react { s.setLeg l sent with notice := Notice.full }))

/-- The overlap rule: with queues in entry order, the request that the substitution of R139 chooses is overlapped by no older request of
another queue, and a candidate that none overlaps is sent itself. -/
def Obligations.NoOlderOverlappingRequestIsPassed : Prop :=
  ∀ (p : LegPort) (q : QueueName), AgeOrder p → p.queue q ≠ [] →
    (∃ r rest, p.queue (p.substitute 2 q) = r :: rest ∧
      ∀ o, o ≠ p.substitute 2 q → ∀ x ∈ p.queue o, x.age < r.age → ¬ Share r.addr r.length x.addr x.length) ∧
    (∀ r rest, p.queue q = r :: rest →
      (∀ o, o ≠ q → ∀ x ∈ p.queue o, x.age < r.age → ¬ Share r.addr r.length x.addr x.length) → p.substitute 2 q = q)

/-- WRITE_RESPONSE completes in every condition of the entry it reaches: freed and handed on, counted and faulting, late, stray or
dropped; on a leg that is not UP it is discarded uncounted. Faulting a leg that is UP makes it leave UP as FAULTED, with the cause, and changes
nothing on any other. A chunk write of the pass that fails ends the job with TARGET_ERROR; whether the engine
takes the report before the leg leaves UP or after it, and then finds no chunk, is a free value of `Config` (log entry 6). That the owner of a failed
foreground write is told before the leg leaves UP is log entry 43, the model's choice. For a read entry it is
an error beat (log entry 14). -/
def Obligations.WriteResponsesByCondition : Prop :=
  (∀ (s : State) (l : LegIx) (n : SeqNo) (ok : Bool), (s.leg l).state ≠ .up →
    exec (.writeResponse l n ok) s = .next (react s)) ∧
  (∀ (s : State) (l : LegIx) (n : SeqNo) (ok : Bool), (s.leg l).state = .up → (s.leg l).flight n = none →
    exec (.writeResponse l n ok) s = .next (react (count l .stray s))) ∧
  (∀ (s : State) (l : LegIx) (n : SeqNo), ((freeEntry l n s).leg l).inflight = (s.leg l).inflight.filter fun x => x.number != n) ∧
  (∀ (s : State) (l : LegIx) (c : LegCause),
    ((s.leg l).state = .up → faultLeg l c s = leaveUp l .faulted c s) ∧ ((s.leg l).state ≠ .up → faultLeg l c s = s)) ∧
  (∀ (s : State) (l : LegIx) (n : SeqNo) (f : Flight), (s.leg l).flight n = some f → f.kind = .read →
    ∀ ok first, exec (.writeResponse l n ok) s = exec (.readBeat l n first .error) s) ∧
  ∀ (s : State) (l : LegIx) (n : SeqNo) (f : Flight), (s.leg l).state = .up → (s.leg l).flight n = some f → f.kind = .write →
    let F := freeEntry l n s
    (f.condition = .live → ∀ r w, f.owner = some (.write r w) →
      exec (.writeResponse l n true) s = .next (react (ackWrite r l F)) ∧
      exec (.writeResponse l n false) s = .next (react (faultLeg l .writeError (failWrite r l (count l .writeFailures F))))) ∧
    (f.condition = .live → ∀ j c, f.owner = some (.chunk j c) →
      exec (.writeResponse l n true) s = .next (react (ackChunk j c F)) ∧
      (¬ ChunkIn s j c .writing →
        exec (.writeResponse l n false) s = .next (react (faultLeg l .writeError (count l .writeFailures F)))) ∧
      ∀ k, runningJob s = some k → ChunkIn s j c .writing →
        let C := { count l .writeFailures F with choices := s.choices + 1 }
        exec (.writeResponse l n false) s = .next (react (faultLeg l .writeError
          (if Config.reportFirst s.choices then demote k.window k.target .rebuildAborted .targetError C else C)))) ∧
    (f.condition = .orphaned → f.counted = false →
      exec (.writeResponse l n false) s = .next (react (faultLeg l .writeError (count l .writeFailures F))) ∧
      ∃ t, exec (.writeResponse l n true) s = .next (react t) ∧ t.counters l = (s.counters l).bump .stray ∧
        (t.leg l).inflight = (F.leg l).inflight ∧ t.writes = s.writes ∧ t.jobs = s.jobs ∧ t.link = s.link) ∧
    (f.condition = .expired → f.counted = false → ∀ ok,
      ∃ t, exec (.writeResponse l n ok) s = .next (react t) ∧ t.counters l = (s.counters l).bump .late ∧
        (t.leg l).inflight = (F.leg l).inflight ∧ t.writes = s.writes ∧ t.jobs = s.jobs ∧ t.link = s.link) ∧
    (f.condition = .closing → ∀ ok, exec (.writeResponse l n ok) s = .next (react F))

/-- An OK acknowledgement of an owed leg moves it to the acked set. The last owed one of a SYNC write brings the answer, OKAY if a CURRENT
slot has acknowledged and FAULT if none, and retires the entry. A LAGGED write is answered OKAY by the first acknowledgement of a slot that is
CURRENT; the last owed one retires it, answered FAULT if it is still unanswered. A pass-through write is answered OKAY by its acknowledgement and
FAULT by an error or a timeout, and retires; these leave a window's entry as it is. Wherever an entry is left owing nothing (a
demotion, a removal, a leg that leaves UP), SYNC is answered OKAY exactly when a CURRENT slot has acknowledged and else FAULT, an unanswered LAGGED
one FAULT, an answered one gets no second answer, and it retires. An acknowledgement that is not owed, or has no entry, is a stray
response and changes nothing else. -/
def Obligations.AcknowledgementsAnswerTheWrite : Prop :=
  (∀ (s : State) (r : Nat) (l : LegIx), findWrite s r = none → ackWrite r l s = count l .stray s) ∧
  (∀ (s : State) (r : Nat) (l : LegIx) (e : WriteEntry), findWrite s r = some e → l ∉ e.owed → ackWrite r l s = count l .stray s) ∧
  (∀ (s : State) (r : Nat) (l : LegIx) (e : WriteEntry) (w : WinIx), findWrite s r = some e → e.window = some w →
    let moved (answered : Bool) := s.writes.map fun x =>
      if x.ref == r then { x with owed := legErase l x.owed, acked := legInsert l x.acked, answered := x.answered || answered } else x
    let working := { s.notice with work := true }
    let answer (a : Answer) := { s.link with answers := s.link.answers ++ [.write e.tag a] }
    let rest := s.writes.filter fun x => x.ref != r
    (e.policy = some .sync → e.owed = [l] → e.answered = false → e.held = .no →
      ackWrite r l s = { s with
        writes := rest
        link := answer (if (legInsert l e.acked).any (fun k => isCurrent s w k) then .okay else .fault)
        notice := Notice.full }) ∧
    (e.policy = some .sync → l ∈ e.owed → (∃ k ∈ e.owed, k ≠ l) →
      ackWrite r l s = { s with writes := moved false, notice := working }) ∧
    (e.policy = some .lagged → l ∈ e.owed → (∃ k ∈ e.owed, k ≠ l) →
      (e.answered = false → isCurrent s w l = true →
        ackWrite r l s = { s with writes := moved true, link := answer .okay, notice := working }) ∧
      (e.answered = true ∨ isCurrent s w l = false → ackWrite r l s = { s with writes := moved false, notice := working })) ∧
    (e.policy = some .lagged → e.owed = [l] → e.held = .no →
      (e.answered = true → ackWrite r l s = { s with writes := rest, notice := Notice.full }) ∧
      (e.answered = false → isCurrent s w l = true →
        ackWrite r l s = { s with writes := rest, link := answer .okay, notice := Notice.full }) ∧
      (e.answered = false → isCurrent s w l = false →
        ackWrite r l s = { s with writes := rest, link := answer .fault, notice := Notice.full })) ∧
    failWrite r l s = s) ∧
  (∀ (s : State) (r : Nat) (l : LegIx) (e : WriteEntry), findWrite s r = some e → e.window = none → e.policy = none →
    e.owed = [l] → e.acked = [] → e.answered = false → e.held = .no →
    let retired (a : Answer) := { s with
      writes := s.writes.filter fun x => x.ref != r
      link := { s.link with answers := s.link.answers ++ [.write e.tag a] }
      notice := Notice.full }
    ackWrite r l s = retired .okay ∧ failWrite r l s = retired .fault) ∧
  (∀ (s : State) (r : Nat) (l : LegIx) (rs : List Nat),
    decideAll rs s = rs.foldl (fun u n => decideEmptied n u) s ∧
    clearOwed r l s = { s with
      writes := s.writes.map fun x => if x.ref == r then { x with owed := legErase l x.owed } else x
      notice := { s.notice with work := true } }) ∧
  (∀ (s : State) (r : Nat), findWrite s r = none → decideEmptied r s = s) ∧
  ∀ (s : State) (r : Nat) (e : WriteEntry), findWrite s r = some e →
    let retired (as : List AnswerItem) := { s with
      writes := s.writes.filter fun x => x.ref != r
      link := { s.link with answers := s.link.answers ++ as }
      notice := Notice.full }
    (e.owed ≠ [] ∨ e.held ≠ .no → decideEmptied r s = s) ∧
    (e.owed = [] → e.held = .no → e.answered = true → decideEmptied r s = retired []) ∧
    (e.owed = [] → e.held = .no → e.answered = false →
      (e.policy = some .lagged → decideEmptied r s = retired [.write e.tag .fault]) ∧
      (∀ w, e.policy = some .sync → e.window = some w →
        ((∃ k ∈ e.acked, isCurrent s w k = true) → decideEmptied r s = retired [.write e.tag .okay]) ∧
        ((∀ k ∈ e.acked, isCurrent s w k = false) → decideEmptied r s = retired [.write e.tag .fault])) ∧
      (e.policy = none → e.window = none →
        (e.acked ≠ [] → decideEmptied r s = retired [.write e.tag .okay]) ∧
        (e.acked = [] → decideEmptied r s = retired [.write e.tag .fault])))

/-- READ_BEAT completes: a beat without error of a LIVE read is handed to its owner, the read or the chunk, as the next beat, and the last one frees
the entry and clears the failure count; an error beat is one read failure in the leg's health and one in its consecutive count, handed to the owner
and tested against the limit, the entry CLOSING until its last beat. Beats of an ORPHANED entry are one stray response, an error among them one
read failure; those of an EXPIRED entry are one late response; those of a CLOSING one are discarded. A beat with no entry is a stray response, counted
at its first beat, and later only if it was not counted while the entry stood (log entry 13); a beat beyond those expected finds no entry (log entry
40, the model's choice). For a write entry a beat is an error response (log entry 14). A delivered beat joins the answer queue with the read's own
bytes and zeros (a beat of fewer than 16 bytes is padded with zeros: log entry 19), and the last one retires the read. -/
def Obligations.ReadBeatsByCondition : Prop :=
  (∀ (s : State) (l : LegIx) (n : SeqNo) (first : Bool) (b : BeatAnswer), (s.leg l).state ≠ .up →
    exec (.readBeat l n first b) s = .next (react s)) ∧
  (∀ (s : State) (l : LegIx) (n : SeqNo) (first : Bool) (b : BeatAnswer), (s.leg l).state = .up → (s.leg l).flight n = none →
    (first = true ∨ n ∉ (s.leg l).spent →
      ∃ t, exec (.readBeat l n first b) s = .next (react t) ∧ t.counters l = (s.counters l).bump .stray ∧ t.reads = s.reads ∧
        t.link = s.link ∧ t.jobs = s.jobs ∧ n ∈ (t.leg l).spent) ∧
    (first = false → n ∈ (s.leg l).spent → exec (.readBeat l n first b) s = .next (react s))) ∧
  (∀ (s : State) (l : LegIx) (n : SeqNo) (f : Flight), (s.leg l).flight n = some f → f.kind = .write →
    ∀ first b, exec (.readBeat l n first b) s = exec (.writeResponse l n false) s) ∧
  (∀ (s : State) (l : LegIx) (n : SeqNo) (first : Bool) (f : Flight) (k : Nat), (s.leg l).state = .up →
    (s.leg l).flight n = some f → f.kind = .read → f.beatsExpected = some k →
    let change (g : Flight → Flight) (u : State) := modLeg l (fun p => p.modFlight n g) u
    let more (u : State) := change (fun x => { x with beatsTaken := x.beatsTaken + 1 }) u
    let noted := change (fun x => { x with beatsTaken := x.beatsTaken + 1, condition := .closing, owner := none, counted := true }) s
    let failed (u : State) := bumpFailures l (count l .readFailures u)
    let once (c : Counter) := if f.counted then s else count l c (change (fun x => { x with counted := true }) s)
    (f.condition = .live → ∀ r, f.owner = some (.read r) → ∀ d,
      (f.beatsTaken + 1 < k → exec (.readBeat l n first (.ok d)) s = .next (react (deliverBeat r d (more s)))) ∧
      (k ≤ f.beatsTaken + 1 → exec (.readBeat l n first (.ok d)) s =
        .next (react (deliverBeat r d (modLeg l (fun p => { p with failures := 0 }) (freeEntry l n s))))) ∧
      (f.beatsTaken + 1 < k → exec (.readBeat l n first .error) s =
        .next (react (checkFailures l (failRead r l (failed noted))))) ∧
      (k ≤ f.beatsTaken + 1 → exec (.readBeat l n first .error) s =
        .next (react (checkFailures l (failRead r l (failed (freeEntry l n s))))))) ∧
    (f.condition = .live → ∀ j c, f.owner = some (.chunk j c) → ∀ d,
      (f.beatsTaken + 1 < k → exec (.readBeat l n first (.ok d)) s = .next (react (chunkBeat j c d false (more s)))) ∧
      (k ≤ f.beatsTaken + 1 → exec (.readBeat l n first (.ok d)) s =
        .next (react (chunkBeat j c d true (modLeg l (fun p => { p with failures := 0 }) (freeEntry l n s))))) ∧
      (f.beatsTaken + 1 < k → exec (.readBeat l n first .error) s =
        .next (react (checkFailures l (failChunkRead j c (failed noted))))) ∧
      (k ≤ f.beatsTaken + 1 → exec (.readBeat l n first .error) s =
        .next (react (checkFailures l (failChunkRead j c (failed (freeEntry l n s))))))) ∧
    (f.condition = .orphaned →
      (∀ d, f.beatsTaken + 1 < k → exec (.readBeat l n first (.ok d)) s = .next (react (more (once .stray)))) ∧
      (∀ d, k ≤ f.beatsTaken + 1 → exec (.readBeat l n first (.ok d)) s = .next (react (freeEntry l n (once .stray)))) ∧
      (f.beatsTaken + 1 < k → exec (.readBeat l n first .error) s = .next (react (checkFailures l (failed noted)))) ∧
      (k ≤ f.beatsTaken + 1 → exec (.readBeat l n first .error) s = .next (react (checkFailures l (failed (freeEntry l n s)))))) ∧
    (f.condition = .expired → ∀ b,
      (f.beatsTaken + 1 < k → exec (.readBeat l n first b) s = .next (react (more (once .late)))) ∧
      (k ≤ f.beatsTaken + 1 → exec (.readBeat l n first b) s = .next (react (freeEntry l n (once .late))))) ∧
    (f.condition = .closing → ∀ b,
      (f.beatsTaken + 1 < k → exec (.readBeat l n first b) s = .next (react (more s))) ∧
      (k ≤ f.beatsTaken + 1 → exec (.readBeat l n first b) s = .next (react (freeEntry l n s))))) ∧
  (∀ (s : State) (l : LegIx) (j : BitVec 8) (c : Nat),
    (ChunkIn s j c .reading → failChunkRead j c s = restartPass s) ∧ (¬ ChunkIn s j c .reading → failChunkRead j c s = s) ∧
    ((s.leg l).failures < 4 → checkFailures l s = s) ∧
    (4 ≤ (s.leg l).failures → checkFailures l s = faultLeg l .readFailures s) ∧
    bumpFailures l s = s.setLeg l { s.leg l with failures := min 4 ((s.leg l).failures + 1) }) ∧
  (∀ (s : State) (r : Nat) (e : ReadEntry) (d : List Byte), findRead s r = some e →
    (deliverBeat r d s).link.answers = s.link.answers ++ [.beat e.tag e.delivered .okay ((List.range 16).map fun i =>
      if e.addr ≤ e.addr / 16 * 16 + 16 * e.delivered + i ∧ e.addr / 16 * 16 + 16 * e.delivered + i < e.addr + e.length
      then d.getD i 0 else 0)] ∧
    (e.delivered + 1 = e.beatsTotal → (deliverBeat r d s).reads = s.reads.filter fun x => x.ref != r) ∧
    (e.delivered + 1 ≠ e.beatsTotal → (deliverBeat r d s).reads =
      s.reads.map fun x => if x.ref == r then { x with delivered := x.delivered + 1 } else x))

/-- ENTRY_TIMER_EXPIRY completes by the table of R143: an awaited or orphaned entry on a leg that is UP counts one timeout, becomes EXPIRED
and faults the leg for a write or counts a read failure for a read, its owner told; on a leg that is not UP it only becomes EXPIRED; a CLOSING or
EXPIRED entry is freed. An expired chunk write of the pass ends the job with TARGET_ERROR, its report taken before the leg leaves UP or after it, a
free value of `Config` (log entry 6). That the owner of an expired foreground write is told before the leg leaves UP is log entry 43, the model's
choice. -/
def Obligations.EntryTimersByCondition : Prop :=
  (∀ (s : State) (l : LegIx) (n : SeqNo), (s.leg l).flight n = none → exec (.entryTimerExpiry l n) s = .next (react s)) ∧
  ∀ (s : State) (l : LegIx) (n : SeqNo) (f : Flight), (s.leg l).flight n = some f →
    let X (u : State) := modLeg l (fun p => p.modFlight n fun x => { x with condition := .expired, owner := none, timerRunning := true }) u
    (f.condition = .closing ∨ f.condition = .expired → exec (.entryTimerExpiry l n) s = .next (react (freeEntry l n s))) ∧
    (f.condition = .live ∨ f.condition = .orphaned → (s.leg l).state ≠ .up → exec (.entryTimerExpiry l n) s = .next (react (X s))) ∧
    (f.condition = .orphaned → (s.leg l).state = .up →
      (f.kind = .write → exec (.entryTimerExpiry l n) s =
        .next (react (faultLeg l .writeTimeout (X (count l .timeouts s))))) ∧
      (f.kind = .read → exec (.entryTimerExpiry l n) s =
        .next (react (checkFailures l (bumpFailures l (X (count l .timeouts s))))))) ∧
    (f.condition = .live → (s.leg l).state = .up → f.kind = .write → ∀ r w, f.owner = some (.write r w) →
      exec (.entryTimerExpiry l n) s = .next (react (faultLeg l .writeTimeout (failWrite r l (X (count l .timeouts s)))))) ∧
    (f.condition = .live → (s.leg l).state = .up → f.kind = .read → ∀ r, f.owner = some (.read r) →
      exec (.entryTimerExpiry l n) s =
        .next (react (checkFailures l (failRead r l (bumpFailures l (X (count l .timeouts s))))))) ∧
    (f.condition = .live → (s.leg l).state = .up → ∀ j c, f.owner = some (.chunk j c) →
      (f.kind = .read → exec (.entryTimerExpiry l n) s =
        .next (react (checkFailures l (failChunkRead j c (bumpFailures l (X (count l .timeouts s))))))) ∧
      (f.kind = .write →
        (¬ ChunkIn s j c .writing → exec (.entryTimerExpiry l n) s =
          .next (react (faultLeg l .writeTimeout (X (count l .timeouts s))))) ∧
        ∀ k, runningJob s = some k → ChunkIn s j c .writing →
          let C := { X (count l .timeouts s) with choices := s.choices + 1 }
          exec (.entryTimerExpiry l n) s = .next (react (faultLeg l .writeTimeout
            (if Config.reportFirst s.choices then demote k.window k.target .rebuildAborted .targetError C else C)))))

/-! ## Request link -/

/-- REQUEST completes: the request joins those that wait on the link (log entry 7, the model's choice), and is taken when the port has no head.
Behind a head, and while RESET is asserted (R163; log entry 8, the model's choice), it waits there. A request that becomes the head is held in a
datapath reset, stalls on a tag in use, is rejected if it is malformed, and is answered FAULT at once if it lies in a DRAINING window, in a LOST
one, or in none with no pass leg UP; the tag then holds what is due. -/
def Obligations.RequestsAreHeldRejectedOrFaulted : Prop :=
  (∀ (s : State) (r : Request),
    let waits := { s with link := { s.link with waiting := s.link.waiting ++ [r] } }
    exec (.request r) s = .next (react waits) ∧
    (s.notice.any = false → s.resetAsserted = true ∨ s.link.head ≠ none → react waits = waits)) ∧
  (∀ (s : State) (r : Request), s.notice.any = false → s.resetAsserted = false → s.link.head = none → s.link.waiting = [] →
    let held (a : AcceptState) (c : StallCause) := { s with link := { s.link with head := some r, accept := a, cause := c } }
    let settled (d : Due) (as : List AnswerItem) := { s with link := { s.link with
      head := none, accept := .opened, cause := .none, tags := s.link.tags ++ [{ tag := r.tag, due := d }],
      answers := s.link.answers ++ as } }
    let free := s.port.progress = .none ∧ ∀ x ∈ s.link.tags, x.tag ≠ r.tag
    let malformed := r.length = 0 ∨ 256 < r.length ∨ r.addr.toNat / 256 ≠ (r.addr.toNat + r.length - 1) / 256 ∨
      (r.kind = .write ∧ r.data.length ≠ r.length)
    (s.port.progress ≠ .none → exec (.request r) s = .next (react (held .resetting .resetting))) ∧
    (s.port.progress = .none → (∃ x ∈ s.link.tags, x.tag = r.tag) →
      exec (.request r) s = .next (react (held .stalled .tagBusy))) ∧
    (free → malformed → exec (.request r) s = .next (react (settled .reject [.reject r.tag r.kind]))) ∧
    (free → ¬ malformed →
      ((∃ w, lookupWindow s r.addr.toNat = some w ∧ ((s.win w).state = .draining ∨ isLost (s.win w) = true)) ∨
        (lookupWindow s r.addr.toNat = none ∧ ∀ l, s.passLeg = some l → (s.leg l).state ≠ .up)) →
      (r.kind = .write → exec (.request r) s = .next (react (settled .writeAnswer [.write r.tag .fault]))) ∧
      (r.kind = .read → exec (.request r) s = .next (react (settled (.beats (beatsOf r.addr.toNat r.length))
        ((List.range (beatsOf r.addr.toNat r.length)).map fun k => .beat r.tag k .fault (List.replicate 16 0))))))) ∧
  (∀ (s : State) (a : Nat),
    (∀ w, lookupWindow s a = some w → (s.win w).state ≠ .disabled ∧ (s.win w).base ≤ a ∧
      a < (s.win w).base + (s.win w).size * 65536) ∧
    (lookupWindow s a = none → ∀ w, (s.win w).state ≠ .disabled → ¬ ((s.win w).base ≤ a ∧ a < (s.win w).base + (s.win w).size * 65536)))

/-- A write or read for an ENABLED window that meets a stall condition stays as the head, STALLED with its cause, and nothing else changes;
the conditions of R47 hold in the order of its table, and a full read tracker stalls a read. HEAD_RETRY completes: it presents a STALLED head
again and leaves any other alone; a request that becomes the head is presented in the same way. -/
def Obligations.StalledHeadsWaitAndAreRetried : Prop :=
  (∀ (s : State) (r : Request) (w : WinIx), s.notice.any = false → s.resetAsserted = false → s.link.head = none →
    s.link.waiting = [] → s.port.progress = .none → tagInUse s r.tag = false → isMalformed r = false →
    lookupWindow s r.addr.toNat = some w → (s.win w).state = .enabled → isLost (s.win w) = false →
    let held (c : StallCause) := { s with link := { s.link with head := some r, accept := .stalled, cause := c } }
    (∀ c, r.kind = .write → writeStall s w ((r.addr.toNat - (s.win w).base) / 65536) = some c →
      exec (.request r) s = .next (react (held c))) ∧
    (r.kind = .read → 24 ≤ s.reads.length → exec (.request r) s = .next (react (held .readTrackerFull)))) ∧
  (∀ (s : State) (r : Request), s.notice.any = false → s.resetAsserted = false → s.link.head = none → s.link.waiting = [] →
    exec (.request r) s = .next (react (present { s with link := { s.link with head := some r } }))) ∧
  (∀ (s : State) (w : WinIx) (g : Nat),
    (releasedWaits s w g = true ↔
      ∃ n ∈ s.hold, ∃ e, findWrite s n = some e ∧ e.held = .released ∧ e.window = some w ∧ e.segment = some g) ∧
    (s.writes.length < 32 → closedFor s w g = false → releasedWaits s w g = false →
      writeStall s w g = queueStall s (s.win w) (s.win w).writePolicy)) ∧
  (∀ (s : State) (w : WinIx) (g : Nat),
    let ms := (s.win w).members.filter fun m => m.state == some .current || m.state == some .rebuilding
    let noDirect (m : Member) := (s.leg m.leg).state ≠ .up ∨ 16 ≤ (s.leg m.leg).direct.length
    (32 ≤ s.writes.length → writeStall s w g = some .trackerFull) ∧
    (s.writes.length < 32 → closedFor s w g = true → 8 ≤ s.hold.length → writeStall s w g = some .holdFull) ∧
    (s.writes.length < 32 → releasedWaits s w g = true → writeStall s w g = some .holdFull) ∧
    (s.writes.length < 32 → closedFor s w g = true → s.hold.length < 8 → releasedWaits s w g = false → writeStall s w g = none) ∧
    (s.writes.length < 32 → closedFor s w g = false → releasedWaits s w g = false → (s.win w).writePolicy = .sync →
      ((∃ m ∈ ms, noDirect m) → writeStall s w g = some .directFull) ∧
      ((∀ m ∈ ms, ¬ noDirect m) → writeStall s w g = none)) ∧
    (s.writes.length < 32 → closedFor s w g = false → releasedWaits s w g = false → (s.win w).writePolicy = .lagged →
      ∀ k, leadOf (s.win w) = some k →
      ((∃ m ∈ ms, m.leg = k.leg ∧ noDirect m) → writeStall s w g = some .directFull) ∧
      ((∀ m ∈ ms, m.leg = k.leg → ¬ noDirect m) →
        ((∃ m ∈ ms, m.leg ≠ k.leg ∧ ((s.leg m.leg).state ≠ .up ∨
            ((s.win w).lagPolicy = .stall ∧ 64 ≤ (s.leg m.leg).lag.length))) → writeStall s w g = some .lagFull) ∧
        ((∀ m ∈ ms, m.leg ≠ k.leg → (s.leg m.leg).state = .up ∧
            ((s.win w).lagPolicy = .stall → (s.leg m.leg).lag.length < 64)) → writeStall s w g = none)))) ∧
  (∀ s : State, s.link.accept ≠ .stalled → exec .headRetry s = .next (react s)) ∧
  (∀ s : State, s.link.accept = .stalled → exec .headRetry s = .next (react (present s)))

/-- A write for an ENABLED window that no condition stalls is accepted: its tag enters the set with the write answer due, and an entry joins
the tracker's tail. A write that meets a closed pass is held, owing no leg. Any other is reported, which overtakes an open pass of its segment; each
lag queue that it finds full under DEMOTE costs that slot, in list order; it is then issued, and a release that this lets go on follows. Issue places
the write with each CURRENT or REBUILDING member in list order, under SYNC in the direct queue, under LAGGED in the lead's direct queue and the
others' lag queues, and records the segment against each STALE slot; the entry owes exactly the legs placed, each with the write at its queue's tail,
and no other leg changes. A placement takes the next age and first withdraws the unsent reads that it overlaps: a read of the direct queue leaves
it, its entry WAITING again with the leg out of its tried set (R77); the chunk reads of the copy channel from the lowest overlapped one on are taken
back, and next chunk is set back to it (R112). A pass-through write stalls on a full tracker or direct queue, and is else tracked and placed on
the pass leg. -/
def Obligations.AcceptedWritesAreTrackedAndPlaced : Prop :=
  (∀ (s : State) (r : Request) (w : WinIx), s.notice.any = false → s.resetAsserted = false → s.link.head = none →
    s.link.waiting = [] → s.port.progress = .none → tagInUse s r.tag = false → isMalformed r = false →
    lookupWindow s r.addr.toNat = some w → (s.win w).state = .enabled → isLost (s.win w) = false → r.kind = .write →
    writeStall s w ((r.addr.toNat - (s.win w).base) / 65536) = none →
    exec (.request r) s = .next (react (acceptWrite w r { s with link := { s.link with
      head := none, accept := .opened, cause := .none, tags := s.link.tags ++ [{ tag := r.tag, due := .writeAnswer }] } }))) ∧
  (∀ (s : State) (w : WinIx) (r : Request),
    let g := (r.addr.toNat - (s.win w).base) / 65536
    let places := (s.win w).members.map fun m => (m.leg, m.base + (r.addr.toNat - (s.win w).base))
    let e (h : Held) : WriteEntry := {
      ref := s.nextRef, tag := r.tag, window := some w, addr := r.addr.toNat, length := r.length, segment := some g
      legAddrs := places, data := r.data, policy := some (s.win w).writePolicy, owed := [], acked := [], answered := false, held := h }
    (closedFor s w g = true → (∀ e ∈ s.writes, e.ref < s.nextRef) → acceptWrite w r s = { s with
      writes := s.writes ++ [e .held]
      nextRef := s.nextRef + 1
      hold := s.hold ++ [s.nextRef] }) ∧
    (closedFor s w g = false → acceptWrite w r s = resumeIfDue (issueWrite s.nextRef w g (s.win w).writePolicy
      (lagOverflow w (s.win w).writePolicy (reportOpen w g
        { s with writes := s.writes ++ [e .no], nextRef := s.nextRef + 1 }))))) ∧
  (∀ (s : State) (w : WinIx) (g : Nat),
    (copyingSegment s w g = true ↔ ∃ j, runningJob s = some j ∧ j.window = w ∧ j.segment = some g) ∧
    (copyingSegment s w g = false → reportOpen w g s = s) ∧
    (∀ j js, s.jobs = j :: js → j.running = true → j.window = w → j.segment = some g →
      reportOpen w g s = { s with jobs := { j with overtaken := true } :: js }) ∧
    (s.notice.release = false → resumeIfDue s = s) ∧
    (s.notice.release = true → resumeIfDue s = resumeRelease { s with notice := { s.notice with release := false } }) ∧
    ∀ p : WritePolicy, let others := (s.win w).members.filter fun m =>
        (m.state == some .current || m.state == some .rebuilding) && (leadOf (s.win w)).all fun k => k.leg != m.leg
      (p = .sync ∨ (s.win w).lagPolicy = .stall → lagOverflow w p s = s) ∧
      (p = .lagged → (s.win w).lagPolicy = .demote → lagOverflow w p s = others.foldl (fun u m =>
        if (u.leg m.leg).state = .up ∧ 64 ≤ (u.leg m.leg).lag.length
        then demoteHolding w m.leg .lagOverflow .lagOverflow u else u) s)) ∧
  (∀ (s : State) (n : Nat) (w : WinIx) (g : Nat) (p : WritePolicy),
    let takers := (s.win w).members.filter fun m => m.state == some .current || m.state == some .rebuilding
    let queue (m : Member) : QueueName := if p = .sync ∨ (leadOf (s.win w)).any (fun k => k.leg == m.leg) then .direct else .lag
    let t := issueWrite n w g p s
    t = ((s.win w).members.foldl (fun u m => addStale w m.leg g u)
      (takers.foldl (fun u m => placeWrite n m.leg (queue m) u) s)).raiseWork ∧
    ∀ e, findWrite s n = some e → e.owed = [] → ((s.win w).members.map (·.leg)).Nodup →
      (∀ m ∈ takers, (addrOn e.legAddrs m.leg).isSome = true ∧ canEnter s m.leg (queue m) = true) →
      (∃ e', findWrite t n = some e' ∧ e'.owed = takers.map (·.leg)) ∧
      (∀ m ∈ takers, ∃ rs r, (t.leg m.leg).queue (queue m) = rs ++ [r] ∧ r.kind = .write ∧ addrOn e.legAddrs m.leg = some r.addr ∧
        r.length = e.length ∧ r.data = e.data ∧ r.owner = .write n e.window) ∧
      ∀ l, (∀ m ∈ takers, m.leg ≠ l) → t.leg l = s.leg l) ∧
  (∀ (s : State) (n : Nat) (l : LegIx) (q : QueueName) (e : WriteEntry) (a : Nat), findWrite s n = some e →
    addrOn e.legAddrs l = some a → canEnter s l q = true →
    let p := s.leg l
    let req : LegRequest := {
      kind := .write, addr := a, length := e.length, data := e.data, owner := .write n e.window, age := p.nextAge }
    let cleared := withdrawChunks l a e.length (withdrawReads l a e.length s)
    ((∀ x ∈ (s.leg l).direct, ¬ (x.kind = .read ∧ Share a e.length x.addr x.length)) →
      (∀ x ∈ (s.leg l).copy, ¬ (x.kind = .read ∧ Share a e.length x.addr x.length)) →
      placeWrite n l q s = { s.setLeg l { p.setQueue q (p.queue q ++ [req]) with nextAge := p.nextAge + 1 } with
        writes := s.writes.map fun x => if x.ref == n then { x with owed := legInsert l x.owed } else x
        notice := { s.notice with work := true } }) ∧
    (placeWrite n l q s =
      { cleared.setLeg l { (cleared.leg l).setQueue q ((cleared.leg l).queue q ++ [req]) with nextAge := p.nextAge + 1 } with
        writes := s.writes.map fun x => if x.ref == n then { x with owed := legInsert l x.owed } else x
        notice := { cleared.notice with work := true } }) ∧
    (∀ x ∈ ((placeWrite n l q s).leg l).direct, x.kind = .read → ¬ Share a e.length x.addr x.length) ∧
    ∃ e', findWrite (placeWrite n l q s) n = some e' ∧ l ∈ e'.owed) ∧
  (∀ a n b m : Nat, overlaps a n b m = true ↔ Share a n b m) ∧
  (∀ (s : State) (l : LegIx) (a n : Nat),
    let cut (r : LegRequest) := r.kind == .read && overlaps a n r.addr r.length
    let p := s.leg l
    ((∀ r ∈ p.direct, cut r = false) → withdrawReads l a n s = s) ∧
    ((∃ r ∈ p.direct, cut r = true) → withdrawReads l a n s =
      { s.setLeg l { p with direct := p.direct.filter fun r => !cut r } with
        reads := s.reads.map fun e => if p.direct.any fun r => cut r && r.owner == .read e.ref
          then { e with tried := legErase l e.tried, current := none, issueBeat := none } else e
        notice := Notice.full }) ∧
    ((∀ r ∈ p.copy, cut r = true → r.chunkRead = none) → withdrawChunks l a n s = s) ∧
    ∀ (j : Job) (js : List Job) (c : Nat), s.jobs = j :: js → j.running = true →
      (∃ r ∈ p.copy, cut r = true ∧ r.chunkRead = some c) →
      (∀ r ∈ p.copy, ∀ k, cut r = true → r.chunkRead = some k → c ≤ k) →
      withdrawChunks l a n s =
        { s.setLeg l { p with copy := p.copy.filter fun r => !(r.chunkRead.any fun k => decide (c ≤ k)) } with
          jobs := { j with
            chunks := j.chunks.filter fun k => !(k.phase == .reading && decide (c ≤ k.index)), nextChunk := c } :: js
          notice := Notice.full }) ∧
  (∀ (r : LegRequest) (c : Nat), r.chunkRead = some c ↔ r.kind = .read ∧ ∃ n, r.owner = .chunk n c) ∧
  (∀ (s : State) (r : Request) (l : LegIx), s.notice.any = false → s.resetAsserted = false → s.link.head = none →
    s.link.waiting = [] → s.port.progress = .none → tagInUse s r.tag = false → isMalformed r = false →
    lookupWindow s r.addr.toNat = none → s.passLeg = some l → (s.leg l).state = .up → r.kind = .write →
    let held (c : StallCause) := { s with link := { s.link with head := some r, accept := .stalled, cause := c } }
    let e : WriteEntry := {
      ref := s.nextRef, tag := r.tag, window := none, addr := r.addr.toNat, length := r.length, segment := none
      legAddrs := [(l, r.addr.toNat)], data := r.data, policy := none, owed := [], acked := [], answered := false, held := .no }
    (32 ≤ s.writes.length → exec (.request r) s = .next (react (held .trackerFull))) ∧
    (s.writes.length < 32 → 16 ≤ (s.leg l).direct.length → exec (.request r) s = .next (react (held .directFull))) ∧
    (s.writes.length < 32 → (s.leg l).direct.length < 16 → exec (.request r) s = .next (react (placeWrite s.nextRef l .direct
      { s with
        writes := s.writes ++ [e]
        nextRef := s.nextRef + 1
        link := { s.link with
          head := none, accept := .opened, cause := .none, tags := s.link.tags ++ [{ tag := r.tag, due := .writeAnswer }] } }))))

/-- A read for an ENABLED window with a place in the read tracker joins its tail and is steered at once; so does a pass-through read, its pass leg the
only candidate. READ_RECONSIDER completes and steers the WAITING reads again. Steering is by the table of R75: FAULT beats and retirement in a LOST
window; placement on an eligible member; waiting for a CURRENT untried one; else FAULT. ORDERED chooses the first eligible member in list order,
SHORTEST the first with the fewest entries in flight, ROTATE the first from the rotate pointer on, which then moves to the position after it. A
placement asks the leg for the undelivered bytes in its direct queue, and a resume credits the failed leg with one failover. A failure ends the
leg request, keeps the tried set, notes the failed leg for the failover count (none for a pass-through read), and steers the read again. -/
def Obligations.ReadsAreSteeredByTheTable : Prop :=
  (∀ (s : State) (r : Request) (w : WinIx), s.notice.any = false → s.resetAsserted = false → s.link.head = none →
    s.link.waiting = [] → s.port.progress = .none → tagInUse s r.tag = false → isMalformed r = false →
    lookupWindow s r.addr.toNat = some w → (s.win w).state = .enabled → isLost (s.win w) = false → r.kind = .read →
    s.reads.length < 24 →
    exec (.request r) s = .next (react (acceptRead w r { s with link := { s.link with
      head := none, accept := .opened, cause := .none,
      tags := s.link.tags ++ [{ tag := r.tag, due := .beats (beatsOf r.addr.toNat r.length) }] } }))) ∧
  (∀ (s : State) (w : WinIx) (r : Request),
    let a := r.addr.toNat
    let e : ReadEntry := {
      ref := s.nextRef, tag := r.tag, window := some w, addr := a, length := r.length
      segment := some ((a - (s.win w).base) / 65536)
      legAddrs := (s.win w).members.map fun m => (m.leg, m.base + (a - (s.win w).base))
      beatsTotal := (a + r.length - 1) / 16 - a / 16 + 1, delivered := 0, tried := [], current := none, issueBeat := none
      failedOn := none }
    acceptRead w r s = steer s.nextRef { s with reads := s.reads ++ [e], nextRef := s.nextRef + 1 }) ∧
  (∀ (s : State) (r : Request) (l : LegIx), s.notice.any = false → s.resetAsserted = false → s.link.head = none →
    s.link.waiting = [] → s.port.progress = .none → tagInUse s r.tag = false → isMalformed r = false →
    lookupWindow s r.addr.toNat = none → s.passLeg = some l → (s.leg l).state = .up → r.kind = .read →
    let n := (r.addr.toNat + r.length - 1) / 16 - r.addr.toNat / 16 + 1
    let e : ReadEntry := {
      ref := s.nextRef, tag := r.tag, window := none, addr := r.addr.toNat, length := r.length, segment := none
      legAddrs := [(l, r.addr.toNat)], beatsTotal := n, delivered := 0, tried := [], current := none, issueBeat := none
      failedOn := none }
    (24 ≤ s.reads.length → exec (.request r) s = .next (react { s with link := { s.link with
      head := some r, accept := .stalled, cause := .readTrackerFull } })) ∧
    (s.reads.length < 24 → exec (.request r) s = .next (react (steer s.nextRef { s with
      reads := s.reads ++ [e]
      nextRef := s.nextRef + 1
      link := { s.link with
        head := none, accept := .opened, cause := .none, tags := s.link.tags ++ [{ tag := r.tag, due := .beats n }] } })))) ∧
  (∀ s : State, exec .readReconsider s = .next (react (reconsider s))) ∧
  (∀ s : State, reconsider s = (s.reads.map (·.ref)).foldl (fun u n => steer n u) s ∧
    ((∀ e ∈ s.reads, e.current ≠ none) → reconsider s = s)) ∧
  (∀ (s : State) (n : Nat) (e : ReadEntry), findRead s n = some e → e.current = none →
    let faults := (List.range (e.beatsTotal - e.delivered)).map fun k =>
      AnswerItem.beat e.tag (e.delivered + k) .fault (List.replicate 16 0)
    let faulted := { s with
      reads := s.reads.filter fun x => x.ref != n
      link := { s.link with answers := s.link.answers ++ faults }
      notice := { s.notice with work := true, head := true } }
    let serves (l : LegIx) := (s.leg l).state = .up ∧ l ∉ e.tried ∧
      (s.leg l).direct.length < 16 ∧ ∃ a k, e.rangeOn l = some (a, k) ∧
        ∀ x ∈ s.writes, l ∈ x.owed → ∀ b, addrOn x.legAddrs l = some b → ¬ Share a k b x.length
    (∀ w, e.window = some w →
      let ms := (s.win w).members
      let can (m : Member) := m.state = some .current ∧ serves m.leg
      let lost := (s.win w).state ≠ .disabled ∧ ∀ m ∈ ms, m.state ≠ some .current
      (lost → steer n s = faulted) ∧
      (¬ lost → (∃ m ∈ ms, can m) →
        ∃ m ∈ ms, can m ∧ steer n s = advanceRotate w m.leg (placeRead n m.leg s) ∧
          ((s.win w).readPolicy = .ordered → ∃ before after, ms = before ++ m :: after ∧ ∀ k ∈ before, ¬ can k) ∧
          ((s.win w).readPolicy = .shortest →
            (∀ k ∈ ms, can k → (s.leg m.leg).inflight.length ≤ (s.leg k.leg).inflight.length) ∧
            ∃ before after, ms = before ++ m :: after ∧
              ∀ k ∈ before, can k → (s.leg m.leg).inflight.length < (s.leg k.leg).inflight.length) ∧
          ((s.win w).readPolicy = .rotate → ∃ before after,
            ms.drop (s.win w).rotate ++ ms.take (s.win w).rotate = before ++ m :: after ∧ ∀ k ∈ before, ¬ can k)) ∧
      (¬ lost → (∀ m ∈ ms, ¬ can m) →
        ((∃ m ∈ ms, m.state = some .current ∧ m.leg ∉ e.tried) → steer n s = s) ∧
        ((∀ m ∈ ms, m.state = some .current → m.leg ∈ e.tried) → steer n s = faulted))) ∧
    (∀ l a as, e.window = none → e.legAddrs = (l, a) :: as →
      (serves l → steer n s = placeRead n l s) ∧
      (¬ serves l → (s.leg l).state = .up → l ∉ e.tried → steer n s = s) ∧
      ((s.leg l).state ≠ .up ∨ l ∈ e.tried → steer n s = faulted))) ∧
  (∀ (s : State) (n : Nat) (l : LegIx) (e : ReadEntry) (b : Nat), findRead s n = some e → addrOn e.legAddrs l = some b →
    canEnter s l .direct = true →
    let first := if e.delivered = 0 then e.addr else e.addr / 16 * 16 + 16 * e.delivered
    let p := s.leg l
    let req : LegRequest := {
      kind := .read, addr := b + (first - e.addr), length := e.addr + e.length - first, data := [], owner := .read n, age := p.nextAge }
    let placed := { s.setLeg l { p with direct := p.direct ++ [req], nextAge := p.nextAge + 1 } with
      reads := s.reads.map fun x => if x.ref == n
        then { x with tried := legInsert l x.tried, current := some l, issueBeat := some x.delivered, failedOn := none } else x }
    e.rangeOn l = some (b + (first - e.addr), e.addr + e.length - first) ∧
    (e.failedOn = none → placeRead n l s = placed) ∧
    (∀ k, e.failedOn = some k → placeRead n l s = placed.setCounters k ((s.counters k).bump .failovers))) ∧
  (∀ (s : State) (n : Nat) (l : LegIx), failRead n l s = steer n { s with
    reads := s.reads.map fun x => if x.ref == n
      then { x with current := none, issueBeat := none, failedOn := if x.window = none then none else some l } else x }) ∧
  (∀ (s : State) (w : WinIx) (l : LegIx), ((s.win w).readPolicy ≠ .rotate → advanceRotate w l s = s) ∧
    ∀ i, (s.win w).readPolicy = .rotate → (s.win w).members.findIdx? (fun k => k.leg == l) = some i →
      advanceRotate w l s = s.setWin w { s.win w with rotate := if i + 1 < (s.win w).members.length then i + 1 else 0 })

/-- ANSWER_ITEM_TAKEN completes: the head item leaves, its tag's record counts down by one and the tag is freed with its last item; with
nothing to take nothing happens. -/
def Obligations.TakenAnswersCountTagsDown : Prop :=
  (∀ s : State, s.link.answers = [] → exec .answerItemTaken s = .next (react s)) ∧
  (∀ (s : State) (a : AnswerItem) (rest : List AnswerItem), s.link.answers = a :: rest →
    exec .answerItemTaken s = .next (react { s with
      link := { s.link with answers := rest, tags := countDown a.tag s.link.tags }
      notice := { s.notice with
        work := true, head := s.notice.head || decide ((countDown a.tag s.link.tags).length < s.link.tags.length) } })) ∧
  (∀ (t : Tag) (x : TagRecord) (rs : List TagRecord),
    (x.tag ≠ t → countDown t (x :: rs) = x :: countDown t rs) ∧
    (x.tag = t → x.due = .writeAnswer ∨ x.due = .reject ∨ x.due = .beats 1 → countDown t (x :: rs) = countDown t rs) ∧
    (∀ n, x.tag = t → x.due = .beats (n + 2) → countDown t (x :: rs) = { x with due := .beats (n + 1) } :: countDown t rs))

/-- RELEASE_RESUME completes: the released writes are taken in hold-queue order until one pauses the release; with none nothing happens. A released
write that meets a closed pass stays, held again. In a window without lead it leaves the queue, is answered FAULT and retires. Otherwise it overtakes
an open pass and makes the overflow demotions of R52; it then stays, the release paused, if a queue that it needs takes no request (that the report
and the demotions come before the pause is log entry 17), and else leaves the queue and is issued, at the addresses of the member list as it stands
(log entry 27; both DEDUCED). -/
def Obligations.ReleasedWritesLeaveTheHoldQueue : Prop :=
  (∀ s : State, exec .releaseResume s = .next (react (resumeRelease s))) ∧
  (∀ s : State,
    let released (n : Nat) := ∃ e, findWrite s n = some e ∧ e.held = .released
    ((∀ n ∈ s.hold, ¬ released n) → nextReleased s = none ∧ resumeRelease s = s) ∧
    ((∃ n ∈ s.hold, released n) →
      (∃ before n after, s.hold = before ++ n :: after ∧ released n ∧ (∀ k ∈ before, ¬ released k) ∧ nextReleased s = some n) ∧
      resumeRelease s = (releaseLoop (2 * s.hold.length) s).raiseHead) ∧
    ∀ k, (nextReleased s = none → releaseLoop (k + 1) s = s) ∧
      ∀ n, nextReleased s = some n →
        ((releaseOne n s).goOn = true → releaseLoop (k + 1) s = releaseLoop k (releaseOne n s).state) ∧
        ((releaseOne n s).goOn = false → releaseLoop (k + 1) s = (releaseOne n s).state)) ∧
  (∀ (s : State) (n : Nat) (e : WriteEntry) (w : WinIx) (g : Nat) (p : WritePolicy), findWrite s n = some e → e.window = some w →
    e.segment = some g → e.policy = some p →
    let reported := lagOverflow w p (reportOpen w g s)
    let unheld (u : State) := { u with hold := u.hold.filter fun k => k != n, notice := { u.notice with work := true, head := true } }
    (closedFor s w g = true → (releaseOne n s).goOn = true ∧ (releaseOne n s).state = { s with
      writes := s.writes.map fun x => if x.ref == n then { x with held := .held } else x }) ∧
    (closedFor s w g = false → leadOf (s.win w) = none → e.owed = [] → e.acked = [] → e.answered = false →
      (releaseOne n s).goOn = true ∧ (releaseOne n s).state = { unheld s with
        writes := s.writes.filter fun x => x.ref != n
        link := { s.link with answers := s.link.answers ++ [.write e.tag .fault] }
        notice := Notice.full }) ∧
    (closedFor s w g = false → (leadOf (s.win w)).isSome = true →
      ((queueStall reported (reported.win w) p).isSome = true →
        (releaseOne n s).goOn = false ∧ (releaseOne n s).state = reported) ∧
      (queueStall reported (reported.win w) p = none →
        (releaseOne n s).goOn = true ∧ (releaseOne n s).state = issueWrite n w g p { unheld reported with
          writes := reported.writes.map fun x => if x.ref == n then { x with
              held := .no
              legAddrs := (reported.win w).members.map fun m => (m.leg, m.base + (x.addr - (reported.win w).base)) }
            else x }))) ∧
  (∀ (s : State) (n : Nat) (e : WriteEntry) (w : WinIx) (g : Nat), s.hold = [n] → findWrite s n = some e → e.window = some w →
    e.segment = some g → e.policy = some .sync → e.held = .released → closedFor s w g = false → copyingSegment s w g = false →
    (leadOf (s.win w)).isSome = true →
    ((queueStall s (s.win w) .sync).isSome = true → exec .releaseResume s = .next (react s.raiseHead)) ∧
    (queueStall s (s.win w) .sync = none → exec .releaseResume s = .next (react (issueWrite n w g .sync { s with
      hold := []
      writes := s.writes.map fun x => if x.ref == n then { x with
          held := .no, legAddrs := (s.win w).members.map fun m => (m.leg, m.base + (x.addr - (s.win w).base)) }
        else x
      notice := { s.notice with work := true, head := true } }).raiseHead)))

/-! ## Rebuild engine -/

/-- JOB_START_ATTEMPT completes: nothing while a job runs, in a datapath reset or with an empty queue; a head that fails a start check leaves
with JOB_ENDED and the cause of the first that fails, and the next is tried; a head that passes them starts, and one that completes at once lets the
next be tried. A job that runs in FULL mode makes its slot REBUILDING and WHOLE without entries, and starts segment 0, pass 1, from the lead's leg.
One that runs in STALE mode makes its slot REBUILDING and starts with the slot's lowest stale segment; with none it completes at once. -/
def Obligations.HeadJobsStartOrAreRemoved : Prop :=
  (∀ s : State, exec .jobStartAttempt s = .next (react (startAttempt s))) ∧
  (∀ (s : State) (j : Job), runningJob s = some j ↔ j.running = true ∧ ∃ js, s.jobs = j :: js) ∧
  (∀ s : State, (s.jobs = [] ∨ (runningJob s).isSome = true ∨ s.port.progress ≠ .none) → startAttempt s = s) ∧
  (∀ (s : State) (j : Job) (js : List Job) (c : JobCause), s.jobs = j :: js → j.running = false → s.port.progress = .none →
    startCheck s j = some c → startAttempt s = startAttempt { s with
      jobs := js, events := s.events.offer (.jobEnded j.window j.target c j.number) }) ∧
  (∀ (s : State) (j : Job) (js : List Job), s.jobs = j :: js → j.running = false → s.port.progress = .none → startCheck s j = none →
    let u := startJob j s
    (js = [] ∨ (runningJob u).isSome = true → startAttempt s = u) ∧ (u.jobs = js → startAttempt s = startAttempt u)) ∧
  (∀ (s : State) (j : Job),
    ((s.leg j.target).state ≠ .up → startCheck s j = some .targetDown) ∧
    ((s.leg j.target).state = .up → slotState s j.window j.target ≠ some .stale → startCheck s j = some .state) ∧
    ((s.leg j.target).state = .up → ∀ m, memberOf s j.window j.target = some m → m.state = some .stale →
      (leadOf (s.win j.window) = none → startCheck s j = some .noSource) ∧
      ((leadOf (s.win j.window)).isSome = true → ¬ Fits s j.target m.base (s.win j.window).size →
        startCheck s j = some .capacity) ∧
      ((leadOf (s.win j.window)).isSome = true → Fits s j.target m.base (s.win j.window).size → startCheck s j = none))) ∧
  (∀ (s : State) (j : Job) (js : List Job) (k : Member), s.jobs = j :: js → j.running = false → startCheck s j = none →
    ((s.win j.window).members.map (·.leg)).Nodup → (j.mode = .full ∨ isWhole s j.window j.target = true) →
    leadOf (s.win j.window) = some k →
    slotState (startJob j s) j.window j.target = some .rebuilding ∧ isWhole (startJob j s) j.window j.target = true ∧
    staleList (startJob j s) j.window j.target = [] ∧
    (startJob j s).events = s.events.offer (.jobStarted j.window j.target .full j.number) ∧
    (startJob j s).jobs = { j with
      mode := .full, running := true, source := (if (s.leg k.leg).state = .up then some k.leg else none)
      segment := some 0, pass := some 1, overtaken := false, nextChunk := 0, chunksWritten := 0, segmentsDone := 0
      segmentsTotal := some (s.win j.window).size } :: js) ∧
  (∀ (s : State) (j : Job) (js : List Job) (k : Member), s.jobs = j :: js → j.running = false → startCheck s j = none →
    ((s.win j.window).members.map (·.leg)).Nodup → j.mode ≠ .full → isWhole s j.window j.target = false →
    leadOf (s.win j.window) = some k →
    let withSlot (f : Member → Member) := { s.win j.window with
      members := (s.win j.window).members.map fun m => if m.leg = j.target then f m else m }
    (∀ g gs, staleList s j.window j.target = g :: gs → startJob j s =
      { s.setWin j.window (withSlot fun m => { m with state := some .rebuilding }) with
        events := s.events.offer (.jobStarted j.window j.target .stale j.number)
        jobs := { j with
          mode := .stale, running := true, source := (if (s.leg k.leg).state = .up then some k.leg else none)
          segment := some g, pass := some 1, overtaken := false, nextChunk := 0, chunksWritten := 0, segmentsDone := 0
          segmentsTotal := some (gs.length + 1) } :: js
        notice := Notice.full }) ∧
    (staleList s j.window j.target = [] →
      let rebuilt := withSlot fun m => { m with
        state := some .current, whole := false, serial := (s.leg j.target).identity.map (·.serial) }
      startJob j s = postChange j.window (healthOf (s.win j.window)) (healthOf rebuilt)
        { s.setWin j.window rebuilt with
          events := ((s.events.offer (.jobStarted j.window j.target .stale j.number)).offer
            (.jobDone j.window j.target j.number)).offer (.memberChange j.window j.target .rebuilt (some .current))
          jobs := js
          notice := Notice.full }))

/-- SOURCE_RETAKE and CHUNK_READ_PLACE complete. A running job without a source takes the lead's leg if it is UP, waits on if it is not, and ends
with NO_SOURCE if its window is LOST; without a running job, or with a source, nothing happens. A chunk read is due only from a source, for a chunk
below 256, with fewer than 4 in process, room in the copy channel and no overlapping write owed; placed, it joins the copy channel and the chunk is in
process. The data of a read's beats go, with the last, into a write to the target; an acknowledged write ends the chunk, the 256th the segment. A
segment whose open pass was overtaken is copied again, its pass one higher; pass 4 is closed to writes. Else it is done: its stale entry goes, the end
of a closed pass releases the hold queue, and the job completes if nothing is left, or takes its next segment. A restart abandons the chunks and
copies the segment again in the same pass. -/
def Obligations.TheEngineTakesSourcesAndPlacesChunkReads : Prop :=
  (∀ s : State, runningJob s = none ∨ (∃ j, runningJob s = some j ∧ (j.source.isSome = true ∨ j.segment = none ∨
      ∃ k, leadOf (s.win j.window) = some k ∧ (s.leg k.leg).state ≠ .up)) → exec .sourceRetake s = .next (react s)) ∧
  (∀ (s : State) (j : Job) (js : List Job) (k : Member), s.jobs = j :: js → j.running = true → j.source = none →
    j.segment.isSome = true → leadOf (s.win j.window) = some k → (s.leg k.leg).state = .up →
    exec .sourceRetake s = .next (react { s with
      jobs := { j with source := some k.leg } :: js, notice := { s.notice with work := true } })) ∧
  (∀ (s : State) (j : Job), runningJob s = some j →
    (j.source = none → j.segment.isSome = true → leadOf (s.win j.window) = none →
      exec .sourceRetake s = .next (react (endIfLost j.window s))) ∧
    (isLost (s.win j.window) = true →
      endIfLost j.window s = demoteOne resumeRelease j.window j.target .rebuildAborted .noSource true s) ∧
    (isLost (s.win j.window) = false → endIfLost j.window s = s)) ∧
  (∀ s : State, runningJob s = none ∨ (∃ j, runningJob s = some j ∧ chunkReadDue s j = none) →
    exec .chunkReadPlace s = .next (react s)) ∧
  (∀ (s : State) (j : Job) (l : LegIx) (a : Nat), chunkReadDue s j = some (l, a) ↔
    j.source = some l ∧ (∃ g m, j.segment = some g ∧ memberOf s j.window l = some m ∧ a = m.base + g * 65536 + j.nextChunk * 256) ∧
    j.chunks.length < 4 ∧ j.nextChunk < 256 ∧ (s.leg l).state = .up ∧ (s.leg l).copy.length < 4 ∧
    ∀ x ∈ s.writes, l ∈ x.owed → ∀ b, addrOn x.legAddrs l = some b → ¬ Share a 256 b x.length) ∧
  (∀ s : State, exec .chunkReadPlace s = .next (react (placeChunkReadsUpTo 4 s))) ∧
  (∀ (s : State) (j : Job) (js : List Job) (l : LegIx) (a : Nat), s.jobs = j :: js → j.running = true →
    chunkReadDue s j = some (l, a) →
    let p := s.leg l
    let req : LegRequest := {
      kind := .read, addr := a, length := 256, data := [], owner := .chunk j.number j.nextChunk, age := p.nextAge }
    let chunk : Chunk := { index := j.nextChunk, phase := .reading, data := [] }
    let next := { j with nextChunk := j.nextChunk + 1, chunks := j.chunks ++ [chunk] }
    let placed := { s.setLeg l { p with copy := p.copy ++ [req], nextAge := p.nextAge + 1 } with jobs := next :: js }
    (∀ n, placeChunkReadsUpTo (n + 1) s = placeChunkReadsUpTo n placed) ∧
    (j.chunks.length = 3 → exec .chunkReadPlace s = .next (react placed))) ∧
  (∀ (s : State) (j : Job) (js : List Job) (c : Nat) (d : List Byte), s.jobs = j :: js → j.running = true →
    let with_ (f : Chunk → Chunk) := { s with
      jobs := { j with chunks := j.chunks.map fun k => if k.index = c then f k else k } :: js }
    (¬ ChunkIn s j.number c .reading → ∀ last, chunkBeat j.number c d last s = s) ∧
    (ChunkIn s j.number c .reading →
      chunkBeat j.number c d false s = with_ (fun k => { k with data := k.data ++ d }) ∧
      chunkBeat j.number c d true s = placeChunkWrite c (with_ fun k => { k with data := k.data ++ d, phase := .writing })) ∧
    (∀ g m k, j.segment = some g → memberOf s j.window j.target = some m → canEnter s j.target .copy = true →
      j.chunks.find? (fun k => k.index == c) = some k →
      let p := s.leg j.target
      let req : LegRequest := {
        kind := .write, addr := m.base + g * 65536 + c * 256, length := 256, data := k.data, owner := .chunk j.number c
        age := p.nextAge }
      placeChunkWrite c s = s.setLeg j.target { p with copy := p.copy ++ [req], nextAge := p.nextAge + 1 }) ∧
    (¬ ChunkIn s j.number c .writing → ackChunk j.number c s = s) ∧
    (ChunkIn s j.number c .writing →
      let written := { s with
        jobs := { j with chunks := j.chunks.filter fun k => k.index != c, chunksWritten := j.chunksWritten + 1 } :: js
        notice := { s.notice with work := true } }
      ackChunk j.number c s = if j.chunksWritten + 1 = 256 then segmentEnd written else written)) ∧
  (∀ (s : State) (j : Job) (js : List Job) (g p : Nat), s.jobs = j :: js → j.running = true → j.segment = some g → j.pass = some p →
    let again := { s with jobs := { j with
      pass := some (p + 1), overtaken := false, nextChunk := 0, chunksWritten := 0 } :: js }
    let done := { s with
      jobs := { j with segment := none, pass := none, segmentsDone := j.segmentsDone + 1 } :: js
      store := if j.mode = .full then s.store
        else s.store.filter fun e => !(e == { window := j.window, leg := j.target, segment := g }) }
    let released := { done with
      writes := s.writes.map fun e => if e.held = .held then { e with held := .released } else e
      notice := { s.notice with work := true, head := true } }
    (j.overtaken = true → p < 4 → segmentEnd s = endIfLost j.window (takeSource again)) ∧
    (j.overtaken = false ∨ 4 ≤ p →
      segmentEnd s = afterSegment j.number (if p = 4 then resumeRelease released else done))) ∧
  (∀ (s : State) (j : Job) (js : List Job), s.jobs = j :: js → j.running = true →
    let complete := if j.mode = .full then j.segmentsDone = (s.win j.window).size else staleList s j.window j.target = []
    let rebuilt := { s.win j.window with members := (s.win j.window).members.map fun m =>
      if m.leg = j.target
      then { m with state := some .current, whole := false, serial := (s.leg j.target).identity.map (·.serial) } else m }
    (complete → afterSegment j.number s = completeJob s) ∧
    (¬ complete → afterSegment j.number s = endIfLost j.window (takeSource { s with jobs := { j with
      segment := if j.mode = .full then some j.segmentsDone else (staleList s j.window j.target).head?
      pass := some 1, overtaken := false, nextChunk := 0, chunksWritten := 0 } :: js })) ∧
    (∀ n, n ≠ j.number → afterSegment n s = s) ∧
    (slotState s j.window j.target = some .rebuilding → completeJob s =
      postChange j.window (healthOf (s.win j.window)) (healthOf rebuilt) { s.setWin j.window rebuilt with
        store := s.store.filter fun e => !(e.window == j.window && e.leg == j.target)
        events := (s.events.offer (.jobDone j.window j.target j.number)).offer
          (.memberChange j.window j.target .rebuilt (some .current))
        jobs := js
        notice := Notice.full }) ∧
    (takeSource s = { s with
      jobs := { j with source := (leadOf (s.win j.window)).bind fun k =>
        if (s.leg k.leg).state = .up then some k.leg else none } :: js
      notice := { s.notice with work := true } }) ∧
    restartPass s = takeSource { abandonChunks s with
      jobs := { j with chunks := [], overtaken := false, nextChunk := 0, chunksWritten := 0 } :: js }) ∧
  (∀ s : State, runningJob s = none → ∀ n, afterSegment n s = s) ∧
  (∀ (s : State) (w : WinIx) (g : Nat), closedFor s w g = true ↔
    ∃ j, runningJob s = some j ∧ j.window = w ∧ j.segment = some g ∧ j.pass = some 4) ∧
  (∀ s : State,
    let engines (r : LegRequest) := ∃ n c, r.owner = .chunk n c
    (∀ l, (abandonChunks s).leg l = { s.leg l with
      copy := (s.leg l).copy.filter fun r => !r.isChunk
      inflight := (s.leg l).inflight.map fun f =>
        if f.owner.any Owner.isChunk = true ∧ f.condition = .live then { f with condition := .orphaned, owner := none } else f }) ∧
    (∀ r : LegRequest, r.isChunk = true ↔ engines r) ∧
    (∀ j js, s.jobs = j :: js → j.running = true → abandonChunks s = { s with
      legs := (abandonChunks s).legs
      jobs := { j with chunks := [] } :: js
      notice := (abandonChunks s).notice }) ∧
    ((∃ l, ∃ r ∈ (s.leg l).copy, engines r) → (abandonChunks s).notice = Notice.full) ∧
    ((∀ l, ∀ r ∈ (s.leg l).copy, ¬ engines r) → (abandonChunks s).notice = { s.notice with work := true }))

/-- RESET_DONE completes: in CLEARING with a clear link RESET_DONE is offered, reset progress becomes NONE, acceptance opens and a head held
is presented; otherwise nothing happens. -/
def Obligations.ResetDoneEndsTheDatapathReset : Prop :=
  (∀ s : State, (s.port.progress ≠ .clearing ∨ s.writes ≠ [] ∨ s.reads ≠ [] ∨ s.link.answers ≠ [] ∨ s.link.tags ≠ []) →
    exec .resetDone s = .next (react s)) ∧
  (∀ s : State, s.port.progress = .clearing → s.writes = [] → s.reads = [] → s.link.answers = [] → s.link.tags = [] →
    let u := { s with
      events := s.events.offer .resetDone
      port := { s.port with progress := .none }
      link := { s.link with accept := .opened, cause := .none } }
    exec .resetDone s = .next (react (present u).raiseWork) ∧
    (s.link.head = none → exec .resetDone s = .next (react { u with notice := { s.notice with work := true } })))

/-- The rebuild commands complete. RESYNC_QUEUE answers by the first condition of R102 and, answered DONE, places a QUEUED job at the tail with
the next job number, which it returns. RESYNC_CANCEL answers NONE without a job, removes a QUEUED one with JOB_ENDED CANCELLED, and demotes the
target of a RUNNING one. Both answer BUSY in a datapath reset and then ARG for an operand that names nothing. RESYNC_GET returns the engine
state and every job record. That a QUEUED job's next chunk, chunks written and segments done are 0 is log entry 39, the model's choice, and that
it leaves by its slot and not by its number, which 256 queueings bring round again, log entry 41, the model's choice. -/
def Obligations.ResyncCommandsQueueCancelAndReport : Prop :=
  (∀ (s : State) (q b c m : Byte), Listening s →
    (s.port.progress ≠ .none →
      exec (.resyncQueue q [b, c, m]) s = .next (answered q .busy [] (heard 0x40 q [b, c, m] s)) ∧
      exec (.resyncCancel q [b, c]) s = .next (answered q .busy [] (heard 0x41 q [b, c] s))) ∧
    (s.port.progress = .none →
      (15 < b.toNat ∨ 3 < c.toNat ∨ 2 < m.toNat →
        exec (.resyncQueue q [b, c, m]) s = .next (answered q .arg [] (heard 0x40 q [b, c, m] s))) ∧
      (15 < b.toNat ∨ 3 < c.toNat → exec (.resyncCancel q [b, c]) s = .next (answered q .arg [] (heard 0x41 q [b, c] s))))) ∧
  (∀ (s : State) (q : Byte) (w : WinIx) (l : LegIx) (mode : JobMode) (b : Byte), Listening s → s.port.progress = .none →
    (mode = .full ∧ b = 0 ∨ mode = .stale ∧ b = 1 ∨ mode = .auto ∧ b = 2) →
    let args := [winToByte w, legToByte l, b]
    let H := heard 0x40 q args s
    let answer := exec (.resyncQueue q args) s
    let lost := ∀ m ∈ (s.win w).members, m.state ≠ some .current
    let job := ∃ j ∈ s.jobs, j.window = w ∧ j.target = l
    let queued : Job := {
      number := s.nextJob, window := w, target := l, mode := mode, running := false, source := none, segment := none
      pass := none, overtaken := false, nextChunk := 0, chunks := [], chunksWritten := 0, segmentsDone := 0
      segmentsTotal := none }
    let exceeds (m : Member) := (s.leg l).identity.isSome = true ∧ ¬ Fits s l m.base (s.win w).size
    ((s.win w).state ≠ .enabled ∨ lost → answer = .next (answered q .state [] H)) ∧
    ((s.win w).state = .enabled → ¬ lost → memberOf s w l = none → answer = .next (answered q .arg [] H)) ∧
    (∀ m, (s.win w).state = .enabled → ¬ lost → memberOf s w l = some m →
      (job → answer = .next (answered q .duplicate [] H)) ∧
      (¬ job → m.state ≠ some .stale → answer = .next (answered q .state [] H)) ∧
      (¬ job → m.state = some .stale → 8 ≤ s.jobs.length → answer = .next (answered q .full [] H)) ∧
      (¬ job → m.state = some .stale → s.jobs.length < 8 → exceeds m → answer = .next (answered q .capacity [] H)) ∧
      (¬ job → m.state = some .stale → s.jobs.length < 8 → ¬ exceeds m → answer = .next (answered q .done [s.nextJob]
        (react { H with
          jobs := s.jobs ++ [queued], nextJob := s.nextJob + 1, notice := { s.notice with work := true } }))))) ∧
  (∀ (s : State) (q : Byte) (w : WinIx) (l : LegIx), Listening s → s.port.progress = .none →
    let args := [winToByte w, legToByte l]
    let H := heard 0x41 q args s
    let answer := exec (.resyncCancel q args) s
    ((∀ j ∈ s.jobs, ¬ (j.window = w ∧ j.target = l)) → answer = .next (answered q .none [] H)) ∧
    (∀ j, s.jobs.find? (fun j => j.window == w && j.target == l) = some j →
      (j.running = false → answer = .next (answered q .done [] (react { H with
        jobs := s.jobs.filter fun k => !(k.window == w && k.target == l)
        events := s.events.offer (.jobEnded w l .cancelled j.number) }))) ∧
      (j.running = true → answer = .next (answered q .done [] (react (demote w l .rebuildAborted .cancelled H)))))) ∧
  (∀ (s : State) (q : Byte), Listening s → exec (.resyncGet q []) s = .next (answered q .done
    ([match s.jobs with
        | [] => (0 : Byte)
        | j :: _ => if j.running then (if j.source.isSome then 1 else 2) else 0,
      BitVec.ofNat 8 s.jobs.length] ++
      s.jobs.flatMap fun j =>
        [j.number, winToByte j.window, legToByte j.target, match j.mode with | .full => (0 : Byte) | .stale => 1 | .auto => 2,
          if j.running then 1 else 0, match j.source with | some l => legToByte l | none => 0xFF] ++
        leBytes 4 (j.segment.getD 0) ++
        [BitVec.ofNat 8 (j.pass.getD 0), (if j.overtaken then (1 : Byte) else 0) ||| (if j.segment.isSome then 2 else 0) |||
          (if j.segmentsTotal.isSome then 4 else 0)] ++
        leBytes 2 j.nextChunk ++
        [BitVec.ofNat 8 (j.chunks.filter fun c => c.phase == .reading).length,
          BitVec.ofNat 8 (j.chunks.filter fun c => c.phase == .writing).length] ++
        leBytes 2 j.chunksWritten ++ leBytes 4 j.segmentsDone ++ leBytes 4 (j.segmentsTotal.getD 0))
    (heard 0x42 q [] s)))

/-! ## Stale segment store, events, health -/

/-- One addition to the store, by the first condition of R89: none for a slot that is not STALE or is WHOLE; none for a triple already there;
an insertion at its place with room; and with 4,096 entries the overflow of R90. -/
def Obligations.StaleAdditionsFollowTheTable : Prop :=
  ∀ (s : State) (w : WinIx) (l : LegIx) (g : Nat),
    let e : StaleEntry := { window := w, leg := l, segment := g }
    (memberOf s w l = none → addStale w l g s = s) ∧
    ∀ m, memberOf s w l = some m →
      (m.state ≠ some .stale ∨ m.whole = true → addStale w l g s = s) ∧
      (m.state = some .stale → m.whole = false → e ∈ s.store → addStale w l g s = s) ∧
      (m.state = some .stale → m.whole = false → e ∉ s.store → s.store.length < 4096 →
        (∃ before after, s.store = before ++ after ∧ addStale w l g s = { s with store := before ++ e :: after }) ∧
        (StoreLaw s → StoreLaw (addStale w l g s))) ∧
      (m.state = some .stale → m.whole = false → e ∉ s.store → 4096 ≤ s.store.length →
        addStale w l g s = { s.setWin w { s.win w with members := (s.win w).members.map fun k =>
            if k.leg = l then { k with whole := true } else k } with
          store := s.store.filter fun x => !(x.window == w && x.leg == l)
          events := s.events.offer (.staleOverflow w l g) })

/-- An offered record is masked, dropped or stored by the table of R165. EVENT_POP completes in every state: EMPTY on an empty queue;
otherwise the head record leaves in the response with the number of records left, and a drop count that is not zero is stored in its place as an
OVERRUN and cleared. The cause codes are the positions in the lists of R164, and each kind's record is laid out by R192. -/
def Obligations.EventRecordsAreStoredAndPopped : Prop :=
  (∀ (e : EventUnit) (r : EventRec),
    (e.mask.getLsbD r.kind.code = true → e.offer r = e) ∧
    (e.mask.getLsbD r.kind.code = false → 32 ≤ e.queue.length → e.offer r = { e with drop := min 255 (e.drop + 1) }) ∧
    (e.mask.getLsbD r.kind.code = false → e.queue.length < 32 → e.offer r =
      { e with queue := e.queue ++ [{ seq := e.nextSeq, record := r }], nextSeq := e.nextSeq + 1 })) ∧
  ([EventKind.legChange, .memberChange, .windowHealth, .windowDisabled, .jobStarted, .jobDone, .jobEnded, .staleOverflow,
    .capacityMismatch, .autoQueueFull, .resetDone, .overrun].map EventKind.code = [1, 2, 3, 4, 5, 6, 7, 8, 9, 10, 11, 12]) ∧
  (∀ (s : State) (q : Byte), Listening s →
    let H := heard 0x60 q [] s
    (s.events.queue = [] → exec (.eventPop q []) s = .next (answered q .empty [] H)) ∧
    (∀ r rest, s.events.queue = r :: rest →
      (s.events.drop = 0 → exec (.eventPop q []) s = .next (answered q .done (eventBytes r rest.length)
        { H with events := { s.events with queue := rest } })) ∧
      (s.events.drop ≠ 0 → exec (.eventPop q []) s = .next (answered q .done (eventBytes r (rest.length + 1))
        { H with events := { s.events with
          queue := rest ++ [{ seq := s.events.nextSeq, record := .overrun s.events.drop }]
          nextSeq := s.events.nextSeq + 1
          drop := 0 } })))) ∧
  ([LegCause.enabled, .disabled, .readyRise, .readyFall, .identified, .identityError, .identityTimeout, .writeError, .writeTimeout,
    .readFailures].map LegCause.code = [0, 1, 2, 3, 4, 5, 6, 7, 8, 9]) ∧
  ([MemberCause.added, .removed, .seed, .reseed, .cleanRejoin, .rebuilt, .legLeft, .lagOverflow, .datapathReset,
    .rebuildAborted].map MemberCause.code = [0, 1, 2, 3, 4, 5, 6, 7, 8, 9]) ∧
  ([JobCause.targetDown, .state, .noSource, .capacity, .cancelled, .removed, .draining, .lagOverflow, .targetError,
    .datapathReset].map JobCause.code = [0, 1, 2, 3, 4, 5, 6, 7, 8, 9]) ∧
  (∀ (n : BitVec 16) (k : Nat) (w : WinIx) (l : LegIx),
    let record (r : EventRec) (body : List Byte) :=
      eventBytes { seq := n, record := r } k = leBytes 2 n.toNat ++ body ++ [BitVec.ofNat 8 k]
    let leg : LegState → Byte := fun | .off => 0 | .down => 1 | .identifying => 2 | .up => 3 | .faulted => 4
    let health : Option Health → Byte := fun | some .prot => 0 | some .exposed => 1 | some .lost => 2 | none => 0xFF
    let slot : Option SlotState → Byte := fun | some .current => 0 | some .stale => 1 | some .rebuilding => 2 | none => 0xFF
    let W := winToByte w
    let L := legToByte l
    (∀ c o v, record (.legChange l c o v) [1, 0xFF, L, c.code, 1, leg o, leg v, 0, 0]) ∧
    (∀ c v, record (.memberChange w l c v) [2, W, L, c.code, 1, slot v, 0, 0, 0]) ∧
    (∀ v, record (.serialChanged w l v) ([2, W, L, 10, 1] ++ leBytes 4 v.toNat)) ∧
    (∀ o v, record (.windowHealth w o v) [3, W, 0xFF, 0xFF, 1, health o, health (some v), 0, 0]) ∧
    record (.windowDisabled w) [4, W, 0xFF, 0xFF, 0, 0, 0, 0, 0] ∧
    (∀ j, record (.jobStarted w l .full j) ([5, W, L, 0, 1] ++ leBytes 4 j.toNat)) ∧
    (∀ j, record (.jobStarted w l .stale j) ([5, W, L, 1, 1] ++ leBytes 4 j.toNat)) ∧
    (∀ j, record (.jobDone w l j) ([6, W, L, 0xFF, 1] ++ leBytes 4 j.toNat)) ∧
    (∀ c j, record (.jobEnded w l c j) ([7, W, L, c.code, 1] ++ leBytes 4 j.toNat)) ∧
    (∀ g, record (.staleOverflow w l g) ([8, W, L, 0xFF, 1] ++ leBytes 4 g)) ∧
    (∀ c, record (.capacityMismatch w l c) ([9, W, L, 0xFF, 1] ++ leBytes 4 c)) ∧
    record (.autoQueueFull w l) [10, W, L, 0xFF, 0, 0, 0, 0, 0] ∧
    record .resetDone [11, 0xFF, 0xFF, 0xFF, 0, 0, 0, 0, 0] ∧
    ∀ d, record (.overrun d) ([12, 0xFF, 0xFF, 0xFF, 1] ++ leBytes 4 d))

/-- EVENT_CONFIG completes in every state of the device: a mask that names kinds 1 to 11 only replaces the mask, and the enable the enable, in
one step, and both are returned; any other mask is refused ARG and changes nothing. The ALERT output is asserted exactly while the enable is on
and the queue holds a record. -/
def Obligations.EventConfigAndTheAlertLine : Prop :=
  (∀ s : State, alertLine s = true ↔ s.events.alertEnable = true ∧ s.events.queue ≠ []) ∧
  (∀ (s : State) (q : Byte) (on : Bool) (m : BitVec 16), Listening s →
    let args := (if on then (1 : Byte) else 0) :: leBytes 2 m.toNat
    let H := heard 0x61 q args s
    (m &&& 0xF001 = 0 → exec (.eventConfig q args) s = .next (answered q .done args
      { H with events := { s.events with alertEnable := on, mask := m } })) ∧
    (m &&& 0xF001 ≠ 0 → exec (.eventConfig q args) s = .next (answered q .arg [] H)))

/-- HEALTH_READ completes in every state of the device: the six counters of the leg are returned in the order of R173 and zeroed in one step,
those of other legs untouched; a leg over 3 is refused with ARG. A count raises one counter of one leg by one and stays at 65,535. -/
def Obligations.HealthCountersCountAndAreReadOnce : Prop :=
  (∀ (s : State) (q b : Byte), Listening s → 3 < b.toNat →
    exec (.healthRead q [b]) s = .next (answered q .arg [] (heard 0x62 q [b] s))) ∧
  (∀ (s : State) (q : Byte) (l : LegIx), Listening s →
    let c := s.counters l
    exec (.healthRead q [legToByte l]) s = .next (answered q .done
      (leBytes 2 c.readFailures ++ leBytes 2 c.writeFailures ++ leBytes 2 c.timeouts ++ leBytes 2 c.late ++ leBytes 2 c.stray ++
        leBytes 2 c.failovers)
      ((heard 0x62 q [legToByte l] s).setCounters l
        { readFailures := 0, writeFailures := 0, timeouts := 0, late := 0, stray := 0, failovers := 0 }))) ∧
  (∀ (s : State) (l : LegIx) (k : Counter), count l k s = s.setCounters l ((s.counters l).bump k)) ∧
  (∀ c : Counters,
    c.bump .readFailures = { c with readFailures := min 65535 (c.readFailures + 1) } ∧
    c.bump .writeFailures = { c with writeFailures := min 65535 (c.writeFailures + 1) } ∧
    c.bump .timeouts = { c with timeouts := min 65535 (c.timeouts + 1) } ∧
    c.bump .late = { c with late := min 65535 (c.late + 1) } ∧
    c.bump .stray = { c with stray := min 65535 (c.stray + 1) } ∧
    c.bump .failovers = { c with failovers := min 65535 (c.failovers + 1) })

/-! ## Laws of the device -/

/-- Every step keeps the event unit's law: at most 32 records with consecutive numbers, a drop count that is not zero only while the queue is
full, and a legal mask. -/
def Obligations.EveryStepKeepsTheEventLaw : Prop := ∀ s t : State, EventLaw s → step s = .next t → EventLaw t

/-- Every step keeps every health counter within 0 to 65,535, and the stale segment store lawful: in its canonical form, no triple twice, at most
4,096 entries, and no entry for a slot that is CURRENT or WHOLE, nor for a DISABLED window, whose slots have no state. -/
def Obligations.EveryStepKeepsCountersAndStore : Prop :=
  ∀ s t : State, CounterLaw s → StoreLaw s → step s = .next t → CounterLaw t ∧ StoreLaw t

/-- Every step keeps the bounds of every queue and table: trackers, hold queue, job queue, leg queues and in-flight tables, with no leg
sequence number in flight twice and every queue in entry order. -/
def Obligations.EveryStepKeepsQueueAndTableBounds : Prop :=
  ∀ s t : State, TableLaw s → LegLaw s → step s = .next t → TableLaw t ∧ LegLaw t

/-- Every step keeps the request link port's record consistent: causes follow acceptance states, RESETTING lasts as long as a datapath reset, a
STALLED port has a head, and no tag is in use twice. -/
def Obligations.EveryStepKeepsTheLinkLaw : Prop := ∀ s t : State, LinkLaw s → step s = .next t → LinkLaw t

/-- The laws that every step keeps hold right after reset. -/
def Obligations.TheLawsHoldAtReset : Prop :=
  EventLaw State.reset ∧ CounterLaw State.reset ∧ StoreLaw State.reset ∧ TableLaw State.reset ∧ LegLaw State.reset ∧
  LinkLaw State.reset
end

