-- ==== Sys2Proof/Laws/State.lean ====
section
/-! SUPPORT. One lemma per field per update of the state: what each small update leaves as it was. -/

namespace Sys2Proof.Machine

@[simp] theorem setWin_passLeg (s : State) (w : WinIx) (x : Window) : (s.setWin w x).passLeg = s.passLeg := rfl
@[simp] theorem setWin_writes (s : State) (w : WinIx) (x : Window) : (s.setWin w x).writes = s.writes := rfl
@[simp] theorem setWin_hold (s : State) (w : WinIx) (x : Window) : (s.setWin w x).hold = s.hold := rfl
@[simp] theorem setWin_reads (s : State) (w : WinIx) (x : Window) : (s.setWin w x).reads = s.reads := rfl
@[simp] theorem setWin_store (s : State) (w : WinIx) (x : Window) : (s.setWin w x).store = s.store := rfl
@[simp] theorem setWin_jobs (s : State) (w : WinIx) (x : Window) : (s.setWin w x).jobs = s.jobs := rfl
@[simp] theorem setWin_nextJob (s : State) (w : WinIx) (x : Window) : (s.setWin w x).nextJob = s.nextJob := rfl
@[simp] theorem setWin_legs (s : State) (w : WinIx) (x : Window) : (s.setWin w x).legs = s.legs := rfl
@[simp] theorem setWin_link (s : State) (w : WinIx) (x : Window) : (s.setWin w x).link = s.link := rfl
@[simp] theorem setWin_events (s : State) (w : WinIx) (x : Window) : (s.setWin w x).events = s.events := rfl
@[simp] theorem setWin_health (s : State) (w : WinIx) (x : Window) : (s.setWin w x).health = s.health := rfl
@[simp] theorem setWin_port (s : State) (w : WinIx) (x : Window) : (s.setWin w x).port = s.port := rfl
@[simp] theorem setWin_resetAsserted (s : State) (w : WinIx) (x : Window) : (s.setWin w x).resetAsserted = s.resetAsserted := rfl
@[simp] theorem setWin_nextRef (s : State) (w : WinIx) (x : Window) : (s.setWin w x).nextRef = s.nextRef := rfl
@[simp] theorem setWin_choices (s : State) (w : WinIx) (x : Window) : (s.setWin w x).choices = s.choices := rfl
@[simp] theorem setWin_notice (s : State) (w : WinIx) (x : Window) : (s.setWin w x).notice = s.notice := rfl
@[simp] theorem setWin_pending (s : State) (w : WinIx) (x : Window) : (s.setWin w x).pending = s.pending := rfl

@[simp] theorem setLeg_windows (s : State) (l : LegIx) (p : LegPort) : (s.setLeg l p).windows = s.windows := rfl
@[simp] theorem setLeg_passLeg (s : State) (l : LegIx) (p : LegPort) : (s.setLeg l p).passLeg = s.passLeg := rfl
@[simp] theorem setLeg_writes (s : State) (l : LegIx) (p : LegPort) : (s.setLeg l p).writes = s.writes := rfl
@[simp] theorem setLeg_hold (s : State) (l : LegIx) (p : LegPort) : (s.setLeg l p).hold = s.hold := rfl
@[simp] theorem setLeg_reads (s : State) (l : LegIx) (p : LegPort) : (s.setLeg l p).reads = s.reads := rfl
@[simp] theorem setLeg_store (s : State) (l : LegIx) (p : LegPort) : (s.setLeg l p).store = s.store := rfl
@[simp] theorem setLeg_jobs (s : State) (l : LegIx) (p : LegPort) : (s.setLeg l p).jobs = s.jobs := rfl
@[simp] theorem setLeg_nextJob (s : State) (l : LegIx) (p : LegPort) : (s.setLeg l p).nextJob = s.nextJob := rfl
@[simp] theorem setLeg_link (s : State) (l : LegIx) (p : LegPort) : (s.setLeg l p).link = s.link := rfl
@[simp] theorem setLeg_events (s : State) (l : LegIx) (p : LegPort) : (s.setLeg l p).events = s.events := rfl
@[simp] theorem setLeg_health (s : State) (l : LegIx) (p : LegPort) : (s.setLeg l p).health = s.health := rfl
@[simp] theorem setLeg_port (s : State) (l : LegIx) (p : LegPort) : (s.setLeg l p).port = s.port := rfl
@[simp] theorem setLeg_resetAsserted (s : State) (l : LegIx) (p : LegPort) : (s.setLeg l p).resetAsserted = s.resetAsserted := rfl
@[simp] theorem setLeg_nextRef (s : State) (l : LegIx) (p : LegPort) : (s.setLeg l p).nextRef = s.nextRef := rfl
@[simp] theorem setLeg_choices (s : State) (l : LegIx) (p : LegPort) : (s.setLeg l p).choices = s.choices := rfl
@[simp] theorem setLeg_notice (s : State) (l : LegIx) (p : LegPort) : (s.setLeg l p).notice = s.notice := rfl
@[simp] theorem setLeg_pending (s : State) (l : LegIx) (p : LegPort) : (s.setLeg l p).pending = s.pending := rfl

@[simp] theorem setCounters_windows (s : State) (l : LegIx) (c : Counters) : (s.setCounters l c).windows = s.windows := rfl
@[simp] theorem setCounters_passLeg (s : State) (l : LegIx) (c : Counters) : (s.setCounters l c).passLeg = s.passLeg := rfl
@[simp] theorem setCounters_writes (s : State) (l : LegIx) (c : Counters) : (s.setCounters l c).writes = s.writes := rfl
@[simp] theorem setCounters_hold (s : State) (l : LegIx) (c : Counters) : (s.setCounters l c).hold = s.hold := rfl
@[simp] theorem setCounters_reads (s : State) (l : LegIx) (c : Counters) : (s.setCounters l c).reads = s.reads := rfl
@[simp] theorem setCounters_store (s : State) (l : LegIx) (c : Counters) : (s.setCounters l c).store = s.store := rfl
@[simp] theorem setCounters_jobs (s : State) (l : LegIx) (c : Counters) : (s.setCounters l c).jobs = s.jobs := rfl
@[simp] theorem setCounters_nextJob (s : State) (l : LegIx) (c : Counters) : (s.setCounters l c).nextJob = s.nextJob := rfl
@[simp] theorem setCounters_legs (s : State) (l : LegIx) (c : Counters) : (s.setCounters l c).legs = s.legs := rfl
@[simp] theorem setCounters_link (s : State) (l : LegIx) (c : Counters) : (s.setCounters l c).link = s.link := rfl
@[simp] theorem setCounters_events (s : State) (l : LegIx) (c : Counters) : (s.setCounters l c).events = s.events := rfl
@[simp] theorem setCounters_port (s : State) (l : LegIx) (c : Counters) : (s.setCounters l c).port = s.port := rfl
@[simp] theorem setCounters_resetAsserted (s : State) (l : LegIx) (c : Counters) : (s.setCounters l c).resetAsserted = s.resetAsserted := rfl
@[simp] theorem setCounters_nextRef (s : State) (l : LegIx) (c : Counters) : (s.setCounters l c).nextRef = s.nextRef := rfl
@[simp] theorem setCounters_choices (s : State) (l : LegIx) (c : Counters) : (s.setCounters l c).choices = s.choices := rfl
@[simp] theorem setCounters_notice (s : State) (l : LegIx) (c : Counters) : (s.setCounters l c).notice = s.notice := rfl
@[simp] theorem setCounters_pending (s : State) (l : LegIx) (c : Counters) : (s.setCounters l c).pending = s.pending := rfl

@[simp] theorem raise_windows (s : State) : (s.raise).windows = s.windows := rfl
@[simp] theorem raise_passLeg (s : State) : (s.raise).passLeg = s.passLeg := rfl
@[simp] theorem raise_writes (s : State) : (s.raise).writes = s.writes := rfl
@[simp] theorem raise_hold (s : State) : (s.raise).hold = s.hold := rfl
@[simp] theorem raise_reads (s : State) : (s.raise).reads = s.reads := rfl
@[simp] theorem raise_store (s : State) : (s.raise).store = s.store := rfl
@[simp] theorem raise_jobs (s : State) : (s.raise).jobs = s.jobs := rfl
@[simp] theorem raise_nextJob (s : State) : (s.raise).nextJob = s.nextJob := rfl
@[simp] theorem raise_legs (s : State) : (s.raise).legs = s.legs := rfl
@[simp] theorem raise_link (s : State) : (s.raise).link = s.link := rfl
@[simp] theorem raise_events (s : State) : (s.raise).events = s.events := rfl
@[simp] theorem raise_health (s : State) : (s.raise).health = s.health := rfl
@[simp] theorem raise_port (s : State) : (s.raise).port = s.port := rfl
@[simp] theorem raise_resetAsserted (s : State) : (s.raise).resetAsserted = s.resetAsserted := rfl
@[simp] theorem raise_nextRef (s : State) : (s.raise).nextRef = s.nextRef := rfl
@[simp] theorem raise_choices (s : State) : (s.raise).choices = s.choices := rfl
@[simp] theorem raise_pending (s : State) : (s.raise).pending = s.pending := rfl

@[simp] theorem raiseHead_windows (s : State) : (s.raiseHead).windows = s.windows := rfl
@[simp] theorem raiseHead_passLeg (s : State) : (s.raiseHead).passLeg = s.passLeg := rfl
@[simp] theorem raiseHead_writes (s : State) : (s.raiseHead).writes = s.writes := rfl
@[simp] theorem raiseHead_hold (s : State) : (s.raiseHead).hold = s.hold := rfl
@[simp] theorem raiseHead_reads (s : State) : (s.raiseHead).reads = s.reads := rfl
@[simp] theorem raiseHead_store (s : State) : (s.raiseHead).store = s.store := rfl
@[simp] theorem raiseHead_jobs (s : State) : (s.raiseHead).jobs = s.jobs := rfl
@[simp] theorem raiseHead_nextJob (s : State) : (s.raiseHead).nextJob = s.nextJob := rfl
@[simp] theorem raiseHead_legs (s : State) : (s.raiseHead).legs = s.legs := rfl
@[simp] theorem raiseHead_link (s : State) : (s.raiseHead).link = s.link := rfl
@[simp] theorem raiseHead_events (s : State) : (s.raiseHead).events = s.events := rfl
@[simp] theorem raiseHead_health (s : State) : (s.raiseHead).health = s.health := rfl
@[simp] theorem raiseHead_port (s : State) : (s.raiseHead).port = s.port := rfl
@[simp] theorem raiseHead_resetAsserted (s : State) : (s.raiseHead).resetAsserted = s.resetAsserted := rfl
@[simp] theorem raiseHead_nextRef (s : State) : (s.raiseHead).nextRef = s.nextRef := rfl
@[simp] theorem raiseHead_choices (s : State) : (s.raiseHead).choices = s.choices := rfl
@[simp] theorem raiseHead_pending (s : State) : (s.raiseHead).pending = s.pending := rfl

@[simp] theorem raiseWork_windows (s : State) : (s.raiseWork).windows = s.windows := rfl
@[simp] theorem raiseWork_passLeg (s : State) : (s.raiseWork).passLeg = s.passLeg := rfl
@[simp] theorem raiseWork_writes (s : State) : (s.raiseWork).writes = s.writes := rfl
@[simp] theorem raiseWork_hold (s : State) : (s.raiseWork).hold = s.hold := rfl
@[simp] theorem raiseWork_reads (s : State) : (s.raiseWork).reads = s.reads := rfl
@[simp] theorem raiseWork_store (s : State) : (s.raiseWork).store = s.store := rfl
@[simp] theorem raiseWork_jobs (s : State) : (s.raiseWork).jobs = s.jobs := rfl
@[simp] theorem raiseWork_nextJob (s : State) : (s.raiseWork).nextJob = s.nextJob := rfl
@[simp] theorem raiseWork_legs (s : State) : (s.raiseWork).legs = s.legs := rfl
@[simp] theorem raiseWork_link (s : State) : (s.raiseWork).link = s.link := rfl
@[simp] theorem raiseWork_events (s : State) : (s.raiseWork).events = s.events := rfl
@[simp] theorem raiseWork_health (s : State) : (s.raiseWork).health = s.health := rfl
@[simp] theorem raiseWork_port (s : State) : (s.raiseWork).port = s.port := rfl
@[simp] theorem raiseWork_resetAsserted (s : State) : (s.raiseWork).resetAsserted = s.resetAsserted := rfl
@[simp] theorem raiseWork_nextRef (s : State) : (s.raiseWork).nextRef = s.nextRef := rfl
@[simp] theorem raiseWork_choices (s : State) : (s.raiseWork).choices = s.choices := rfl
@[simp] theorem raiseWork_pending (s : State) : (s.raiseWork).pending = s.pending := rfl

@[simp] theorem modWin_passLeg (s : State) (w : WinIx) (f : Window → Window) : (modWin w f s).passLeg = s.passLeg := rfl
@[simp] theorem modWin_writes (s : State) (w : WinIx) (f : Window → Window) : (modWin w f s).writes = s.writes := rfl
@[simp] theorem modWin_hold (s : State) (w : WinIx) (f : Window → Window) : (modWin w f s).hold = s.hold := rfl
@[simp] theorem modWin_reads (s : State) (w : WinIx) (f : Window → Window) : (modWin w f s).reads = s.reads := rfl
@[simp] theorem modWin_store (s : State) (w : WinIx) (f : Window → Window) : (modWin w f s).store = s.store := rfl
@[simp] theorem modWin_jobs (s : State) (w : WinIx) (f : Window → Window) : (modWin w f s).jobs = s.jobs := rfl
@[simp] theorem modWin_nextJob (s : State) (w : WinIx) (f : Window → Window) : (modWin w f s).nextJob = s.nextJob := rfl
@[simp] theorem modWin_legs (s : State) (w : WinIx) (f : Window → Window) : (modWin w f s).legs = s.legs := rfl
@[simp] theorem modWin_link (s : State) (w : WinIx) (f : Window → Window) : (modWin w f s).link = s.link := rfl
@[simp] theorem modWin_events (s : State) (w : WinIx) (f : Window → Window) : (modWin w f s).events = s.events := rfl
@[simp] theorem modWin_health (s : State) (w : WinIx) (f : Window → Window) : (modWin w f s).health = s.health := rfl
@[simp] theorem modWin_port (s : State) (w : WinIx) (f : Window → Window) : (modWin w f s).port = s.port := rfl
@[simp] theorem modWin_resetAsserted (s : State) (w : WinIx) (f : Window → Window) : (modWin w f s).resetAsserted = s.resetAsserted := rfl
@[simp] theorem modWin_nextRef (s : State) (w : WinIx) (f : Window → Window) : (modWin w f s).nextRef = s.nextRef := rfl
@[simp] theorem modWin_choices (s : State) (w : WinIx) (f : Window → Window) : (modWin w f s).choices = s.choices := rfl
@[simp] theorem modWin_notice (s : State) (w : WinIx) (f : Window → Window) : (modWin w f s).notice = s.notice := rfl
@[simp] theorem modWin_pending (s : State) (w : WinIx) (f : Window → Window) : (modWin w f s).pending = s.pending := rfl

@[simp] theorem modLeg_windows (s : State) (l : LegIx) (f : LegPort → LegPort) : (modLeg l f s).windows = s.windows := rfl
@[simp] theorem modLeg_passLeg (s : State) (l : LegIx) (f : LegPort → LegPort) : (modLeg l f s).passLeg = s.passLeg := rfl
@[simp] theorem modLeg_writes (s : State) (l : LegIx) (f : LegPort → LegPort) : (modLeg l f s).writes = s.writes := rfl
@[simp] theorem modLeg_hold (s : State) (l : LegIx) (f : LegPort → LegPort) : (modLeg l f s).hold = s.hold := rfl
@[simp] theorem modLeg_reads (s : State) (l : LegIx) (f : LegPort → LegPort) : (modLeg l f s).reads = s.reads := rfl
@[simp] theorem modLeg_store (s : State) (l : LegIx) (f : LegPort → LegPort) : (modLeg l f s).store = s.store := rfl
@[simp] theorem modLeg_jobs (s : State) (l : LegIx) (f : LegPort → LegPort) : (modLeg l f s).jobs = s.jobs := rfl
@[simp] theorem modLeg_nextJob (s : State) (l : LegIx) (f : LegPort → LegPort) : (modLeg l f s).nextJob = s.nextJob := rfl
@[simp] theorem modLeg_link (s : State) (l : LegIx) (f : LegPort → LegPort) : (modLeg l f s).link = s.link := rfl
@[simp] theorem modLeg_events (s : State) (l : LegIx) (f : LegPort → LegPort) : (modLeg l f s).events = s.events := rfl
@[simp] theorem modLeg_health (s : State) (l : LegIx) (f : LegPort → LegPort) : (modLeg l f s).health = s.health := rfl
@[simp] theorem modLeg_port (s : State) (l : LegIx) (f : LegPort → LegPort) : (modLeg l f s).port = s.port := rfl
@[simp] theorem modLeg_resetAsserted (s : State) (l : LegIx) (f : LegPort → LegPort) : (modLeg l f s).resetAsserted = s.resetAsserted := rfl
@[simp] theorem modLeg_nextRef (s : State) (l : LegIx) (f : LegPort → LegPort) : (modLeg l f s).nextRef = s.nextRef := rfl
@[simp] theorem modLeg_choices (s : State) (l : LegIx) (f : LegPort → LegPort) : (modLeg l f s).choices = s.choices := rfl
@[simp] theorem modLeg_notice (s : State) (l : LegIx) (f : LegPort → LegPort) : (modLeg l f s).notice = s.notice := rfl
@[simp] theorem modLeg_pending (s : State) (l : LegIx) (f : LegPort → LegPort) : (modLeg l f s).pending = s.pending := rfl

@[simp] theorem modMember_passLeg (s : State) (w : WinIx) (l : LegIx) (f : Member → Member) : (modMember w l f s).passLeg = s.passLeg := rfl
@[simp] theorem modMember_writes (s : State) (w : WinIx) (l : LegIx) (f : Member → Member) : (modMember w l f s).writes = s.writes := rfl
@[simp] theorem modMember_hold (s : State) (w : WinIx) (l : LegIx) (f : Member → Member) : (modMember w l f s).hold = s.hold := rfl
@[simp] theorem modMember_reads (s : State) (w : WinIx) (l : LegIx) (f : Member → Member) : (modMember w l f s).reads = s.reads := rfl
@[simp] theorem modMember_store (s : State) (w : WinIx) (l : LegIx) (f : Member → Member) : (modMember w l f s).store = s.store := rfl
@[simp] theorem modMember_jobs (s : State) (w : WinIx) (l : LegIx) (f : Member → Member) : (modMember w l f s).jobs = s.jobs := rfl
@[simp] theorem modMember_nextJob (s : State) (w : WinIx) (l : LegIx) (f : Member → Member) : (modMember w l f s).nextJob = s.nextJob := rfl
@[simp] theorem modMember_legs (s : State) (w : WinIx) (l : LegIx) (f : Member → Member) : (modMember w l f s).legs = s.legs := rfl
@[simp] theorem modMember_link (s : State) (w : WinIx) (l : LegIx) (f : Member → Member) : (modMember w l f s).link = s.link := rfl
@[simp] theorem modMember_events (s : State) (w : WinIx) (l : LegIx) (f : Member → Member) : (modMember w l f s).events = s.events := rfl
@[simp] theorem modMember_health (s : State) (w : WinIx) (l : LegIx) (f : Member → Member) : (modMember w l f s).health = s.health := rfl
@[simp] theorem modMember_port (s : State) (w : WinIx) (l : LegIx) (f : Member → Member) : (modMember w l f s).port = s.port := rfl
@[simp] theorem modMember_resetAsserted (s : State) (w : WinIx) (l : LegIx) (f : Member → Member) : (modMember w l f s).resetAsserted = s.resetAsserted := rfl
@[simp] theorem modMember_nextRef (s : State) (w : WinIx) (l : LegIx) (f : Member → Member) : (modMember w l f s).nextRef = s.nextRef := rfl
@[simp] theorem modMember_choices (s : State) (w : WinIx) (l : LegIx) (f : Member → Member) : (modMember w l f s).choices = s.choices := rfl
@[simp] theorem modMember_notice (s : State) (w : WinIx) (l : LegIx) (f : Member → Member) : (modMember w l f s).notice = s.notice := rfl
@[simp] theorem modMember_pending (s : State) (w : WinIx) (l : LegIx) (f : Member → Member) : (modMember w l f s).pending = s.pending := rfl

@[simp] theorem post_windows (s : State) (r : EventRec) : (post r s).windows = s.windows := rfl
@[simp] theorem post_passLeg (s : State) (r : EventRec) : (post r s).passLeg = s.passLeg := rfl
@[simp] theorem post_writes (s : State) (r : EventRec) : (post r s).writes = s.writes := rfl
@[simp] theorem post_hold (s : State) (r : EventRec) : (post r s).hold = s.hold := rfl
@[simp] theorem post_reads (s : State) (r : EventRec) : (post r s).reads = s.reads := rfl
@[simp] theorem post_store (s : State) (r : EventRec) : (post r s).store = s.store := rfl
@[simp] theorem post_jobs (s : State) (r : EventRec) : (post r s).jobs = s.jobs := rfl
@[simp] theorem post_nextJob (s : State) (r : EventRec) : (post r s).nextJob = s.nextJob := rfl
@[simp] theorem post_legs (s : State) (r : EventRec) : (post r s).legs = s.legs := rfl
@[simp] theorem post_link (s : State) (r : EventRec) : (post r s).link = s.link := rfl
@[simp] theorem post_health (s : State) (r : EventRec) : (post r s).health = s.health := rfl
@[simp] theorem post_port (s : State) (r : EventRec) : (post r s).port = s.port := rfl
@[simp] theorem post_resetAsserted (s : State) (r : EventRec) : (post r s).resetAsserted = s.resetAsserted := rfl
@[simp] theorem post_nextRef (s : State) (r : EventRec) : (post r s).nextRef = s.nextRef := rfl
@[simp] theorem post_choices (s : State) (r : EventRec) : (post r s).choices = s.choices := rfl
@[simp] theorem post_notice (s : State) (r : EventRec) : (post r s).notice = s.notice := rfl
@[simp] theorem post_pending (s : State) (r : EventRec) : (post r s).pending = s.pending := rfl

@[simp] theorem count_windows (s : State) (l : LegIx) (k : Counter) : (count l k s).windows = s.windows := rfl
@[simp] theorem count_passLeg (s : State) (l : LegIx) (k : Counter) : (count l k s).passLeg = s.passLeg := rfl
@[simp] theorem count_writes (s : State) (l : LegIx) (k : Counter) : (count l k s).writes = s.writes := rfl
@[simp] theorem count_hold (s : State) (l : LegIx) (k : Counter) : (count l k s).hold = s.hold := rfl
@[simp] theorem count_reads (s : State) (l : LegIx) (k : Counter) : (count l k s).reads = s.reads := rfl
@[simp] theorem count_store (s : State) (l : LegIx) (k : Counter) : (count l k s).store = s.store := rfl
@[simp] theorem count_jobs (s : State) (l : LegIx) (k : Counter) : (count l k s).jobs = s.jobs := rfl
@[simp] theorem count_nextJob (s : State) (l : LegIx) (k : Counter) : (count l k s).nextJob = s.nextJob := rfl
@[simp] theorem count_legs (s : State) (l : LegIx) (k : Counter) : (count l k s).legs = s.legs := rfl
@[simp] theorem count_link (s : State) (l : LegIx) (k : Counter) : (count l k s).link = s.link := rfl
@[simp] theorem count_events (s : State) (l : LegIx) (k : Counter) : (count l k s).events = s.events := rfl
@[simp] theorem count_port (s : State) (l : LegIx) (k : Counter) : (count l k s).port = s.port := rfl
@[simp] theorem count_resetAsserted (s : State) (l : LegIx) (k : Counter) : (count l k s).resetAsserted = s.resetAsserted := rfl
@[simp] theorem count_nextRef (s : State) (l : LegIx) (k : Counter) : (count l k s).nextRef = s.nextRef := rfl
@[simp] theorem count_choices (s : State) (l : LegIx) (k : Counter) : (count l k s).choices = s.choices := rfl
@[simp] theorem count_notice (s : State) (l : LegIx) (k : Counter) : (count l k s).notice = s.notice := rfl
@[simp] theorem count_pending (s : State) (l : LegIx) (k : Counter) : (count l k s).pending = s.pending := rfl

@[simp] theorem freeSlot_windows (s : State) (w : WinIx) (l : LegIx) : (freeSlot w l s).windows = s.windows := rfl
@[simp] theorem freeSlot_passLeg (s : State) (w : WinIx) (l : LegIx) : (freeSlot w l s).passLeg = s.passLeg := rfl
@[simp] theorem freeSlot_writes (s : State) (w : WinIx) (l : LegIx) : (freeSlot w l s).writes = s.writes := rfl
@[simp] theorem freeSlot_hold (s : State) (w : WinIx) (l : LegIx) : (freeSlot w l s).hold = s.hold := rfl
@[simp] theorem freeSlot_reads (s : State) (w : WinIx) (l : LegIx) : (freeSlot w l s).reads = s.reads := rfl
@[simp] theorem freeSlot_jobs (s : State) (w : WinIx) (l : LegIx) : (freeSlot w l s).jobs = s.jobs := rfl
@[simp] theorem freeSlot_nextJob (s : State) (w : WinIx) (l : LegIx) : (freeSlot w l s).nextJob = s.nextJob := rfl
@[simp] theorem freeSlot_legs (s : State) (w : WinIx) (l : LegIx) : (freeSlot w l s).legs = s.legs := rfl
@[simp] theorem freeSlot_link (s : State) (w : WinIx) (l : LegIx) : (freeSlot w l s).link = s.link := rfl
@[simp] theorem freeSlot_events (s : State) (w : WinIx) (l : LegIx) : (freeSlot w l s).events = s.events := rfl
@[simp] theorem freeSlot_health (s : State) (w : WinIx) (l : LegIx) : (freeSlot w l s).health = s.health := rfl
@[simp] theorem freeSlot_port (s : State) (w : WinIx) (l : LegIx) : (freeSlot w l s).port = s.port := rfl
@[simp] theorem freeSlot_resetAsserted (s : State) (w : WinIx) (l : LegIx) : (freeSlot w l s).resetAsserted = s.resetAsserted := rfl
@[simp] theorem freeSlot_nextRef (s : State) (w : WinIx) (l : LegIx) : (freeSlot w l s).nextRef = s.nextRef := rfl
@[simp] theorem freeSlot_choices (s : State) (w : WinIx) (l : LegIx) : (freeSlot w l s).choices = s.choices := rfl
@[simp] theorem freeSlot_notice (s : State) (w : WinIx) (l : LegIx) : (freeSlot w l s).notice = s.notice := rfl
@[simp] theorem freeSlot_pending (s : State) (w : WinIx) (l : LegIx) : (freeSlot w l s).pending = s.pending := rfl

@[simp] theorem removeStale_windows (s : State) (w : WinIx) (l : LegIx) (g : Nat) : (removeStale w l g s).windows = s.windows := rfl
@[simp] theorem removeStale_passLeg (s : State) (w : WinIx) (l : LegIx) (g : Nat) : (removeStale w l g s).passLeg = s.passLeg := rfl
@[simp] theorem removeStale_writes (s : State) (w : WinIx) (l : LegIx) (g : Nat) : (removeStale w l g s).writes = s.writes := rfl
@[simp] theorem removeStale_hold (s : State) (w : WinIx) (l : LegIx) (g : Nat) : (removeStale w l g s).hold = s.hold := rfl
@[simp] theorem removeStale_reads (s : State) (w : WinIx) (l : LegIx) (g : Nat) : (removeStale w l g s).reads = s.reads := rfl
@[simp] theorem removeStale_jobs (s : State) (w : WinIx) (l : LegIx) (g : Nat) : (removeStale w l g s).jobs = s.jobs := rfl
@[simp] theorem removeStale_nextJob (s : State) (w : WinIx) (l : LegIx) (g : Nat) : (removeStale w l g s).nextJob = s.nextJob := rfl
@[simp] theorem removeStale_legs (s : State) (w : WinIx) (l : LegIx) (g : Nat) : (removeStale w l g s).legs = s.legs := rfl
@[simp] theorem removeStale_link (s : State) (w : WinIx) (l : LegIx) (g : Nat) : (removeStale w l g s).link = s.link := rfl
@[simp] theorem removeStale_events (s : State) (w : WinIx) (l : LegIx) (g : Nat) : (removeStale w l g s).events = s.events := rfl
@[simp] theorem removeStale_health (s : State) (w : WinIx) (l : LegIx) (g : Nat) : (removeStale w l g s).health = s.health := rfl
@[simp] theorem removeStale_port (s : State) (w : WinIx) (l : LegIx) (g : Nat) : (removeStale w l g s).port = s.port := rfl
@[simp] theorem removeStale_resetAsserted (s : State) (w : WinIx) (l : LegIx) (g : Nat) : (removeStale w l g s).resetAsserted = s.resetAsserted := rfl
@[simp] theorem removeStale_nextRef (s : State) (w : WinIx) (l : LegIx) (g : Nat) : (removeStale w l g s).nextRef = s.nextRef := rfl
@[simp] theorem removeStale_choices (s : State) (w : WinIx) (l : LegIx) (g : Nat) : (removeStale w l g s).choices = s.choices := rfl
@[simp] theorem removeStale_notice (s : State) (w : WinIx) (l : LegIx) (g : Nat) : (removeStale w l g s).notice = s.notice := rfl
@[simp] theorem removeStale_pending (s : State) (w : WinIx) (l : LegIx) (g : Nat) : (removeStale w l g s).pending = s.pending := rfl

@[simp] theorem pushAnswer_windows (s : State) (a : AnswerItem) : (pushAnswer a s).windows = s.windows := rfl
@[simp] theorem pushAnswer_passLeg (s : State) (a : AnswerItem) : (pushAnswer a s).passLeg = s.passLeg := rfl
@[simp] theorem pushAnswer_writes (s : State) (a : AnswerItem) : (pushAnswer a s).writes = s.writes := rfl
@[simp] theorem pushAnswer_hold (s : State) (a : AnswerItem) : (pushAnswer a s).hold = s.hold := rfl
@[simp] theorem pushAnswer_reads (s : State) (a : AnswerItem) : (pushAnswer a s).reads = s.reads := rfl
@[simp] theorem pushAnswer_store (s : State) (a : AnswerItem) : (pushAnswer a s).store = s.store := rfl
@[simp] theorem pushAnswer_jobs (s : State) (a : AnswerItem) : (pushAnswer a s).jobs = s.jobs := rfl
@[simp] theorem pushAnswer_nextJob (s : State) (a : AnswerItem) : (pushAnswer a s).nextJob = s.nextJob := rfl
@[simp] theorem pushAnswer_legs (s : State) (a : AnswerItem) : (pushAnswer a s).legs = s.legs := rfl
@[simp] theorem pushAnswer_events (s : State) (a : AnswerItem) : (pushAnswer a s).events = s.events := rfl
@[simp] theorem pushAnswer_health (s : State) (a : AnswerItem) : (pushAnswer a s).health = s.health := rfl
@[simp] theorem pushAnswer_port (s : State) (a : AnswerItem) : (pushAnswer a s).port = s.port := rfl
@[simp] theorem pushAnswer_resetAsserted (s : State) (a : AnswerItem) : (pushAnswer a s).resetAsserted = s.resetAsserted := rfl
@[simp] theorem pushAnswer_nextRef (s : State) (a : AnswerItem) : (pushAnswer a s).nextRef = s.nextRef := rfl
@[simp] theorem pushAnswer_choices (s : State) (a : AnswerItem) : (pushAnswer a s).choices = s.choices := rfl
@[simp] theorem pushAnswer_notice (s : State) (a : AnswerItem) : (pushAnswer a s).notice = s.notice := rfl
@[simp] theorem pushAnswer_pending (s : State) (a : AnswerItem) : (pushAnswer a s).pending = s.pending := rfl

@[simp] theorem pushAnswers_windows (s : State) (as : List AnswerItem) : (pushAnswers as s).windows = s.windows := rfl
@[simp] theorem pushAnswers_passLeg (s : State) (as : List AnswerItem) : (pushAnswers as s).passLeg = s.passLeg := rfl
@[simp] theorem pushAnswers_writes (s : State) (as : List AnswerItem) : (pushAnswers as s).writes = s.writes := rfl
@[simp] theorem pushAnswers_hold (s : State) (as : List AnswerItem) : (pushAnswers as s).hold = s.hold := rfl
@[simp] theorem pushAnswers_reads (s : State) (as : List AnswerItem) : (pushAnswers as s).reads = s.reads := rfl
@[simp] theorem pushAnswers_store (s : State) (as : List AnswerItem) : (pushAnswers as s).store = s.store := rfl
@[simp] theorem pushAnswers_jobs (s : State) (as : List AnswerItem) : (pushAnswers as s).jobs = s.jobs := rfl
@[simp] theorem pushAnswers_nextJob (s : State) (as : List AnswerItem) : (pushAnswers as s).nextJob = s.nextJob := rfl
@[simp] theorem pushAnswers_legs (s : State) (as : List AnswerItem) : (pushAnswers as s).legs = s.legs := rfl
@[simp] theorem pushAnswers_events (s : State) (as : List AnswerItem) : (pushAnswers as s).events = s.events := rfl
@[simp] theorem pushAnswers_health (s : State) (as : List AnswerItem) : (pushAnswers as s).health = s.health := rfl
@[simp] theorem pushAnswers_port (s : State) (as : List AnswerItem) : (pushAnswers as s).port = s.port := rfl
@[simp] theorem pushAnswers_resetAsserted (s : State) (as : List AnswerItem) : (pushAnswers as s).resetAsserted = s.resetAsserted := rfl
@[simp] theorem pushAnswers_nextRef (s : State) (as : List AnswerItem) : (pushAnswers as s).nextRef = s.nextRef := rfl
@[simp] theorem pushAnswers_choices (s : State) (as : List AnswerItem) : (pushAnswers as s).choices = s.choices := rfl
@[simp] theorem pushAnswers_notice (s : State) (as : List AnswerItem) : (pushAnswers as s).notice = s.notice := rfl
@[simp] theorem pushAnswers_pending (s : State) (as : List AnswerItem) : (pushAnswers as s).pending = s.pending := rfl

@[simp] theorem admitTag_windows (s : State) (t : Tag) (d : Due) : (admitTag t d s).windows = s.windows := rfl
@[simp] theorem admitTag_passLeg (s : State) (t : Tag) (d : Due) : (admitTag t d s).passLeg = s.passLeg := rfl
@[simp] theorem admitTag_writes (s : State) (t : Tag) (d : Due) : (admitTag t d s).writes = s.writes := rfl
@[simp] theorem admitTag_hold (s : State) (t : Tag) (d : Due) : (admitTag t d s).hold = s.hold := rfl
@[simp] theorem admitTag_reads (s : State) (t : Tag) (d : Due) : (admitTag t d s).reads = s.reads := rfl
@[simp] theorem admitTag_store (s : State) (t : Tag) (d : Due) : (admitTag t d s).store = s.store := rfl
@[simp] theorem admitTag_jobs (s : State) (t : Tag) (d : Due) : (admitTag t d s).jobs = s.jobs := rfl
@[simp] theorem admitTag_nextJob (s : State) (t : Tag) (d : Due) : (admitTag t d s).nextJob = s.nextJob := rfl
@[simp] theorem admitTag_legs (s : State) (t : Tag) (d : Due) : (admitTag t d s).legs = s.legs := rfl
@[simp] theorem admitTag_events (s : State) (t : Tag) (d : Due) : (admitTag t d s).events = s.events := rfl
@[simp] theorem admitTag_health (s : State) (t : Tag) (d : Due) : (admitTag t d s).health = s.health := rfl
@[simp] theorem admitTag_port (s : State) (t : Tag) (d : Due) : (admitTag t d s).port = s.port := rfl
@[simp] theorem admitTag_resetAsserted (s : State) (t : Tag) (d : Due) : (admitTag t d s).resetAsserted = s.resetAsserted := rfl
@[simp] theorem admitTag_nextRef (s : State) (t : Tag) (d : Due) : (admitTag t d s).nextRef = s.nextRef := rfl
@[simp] theorem admitTag_choices (s : State) (t : Tag) (d : Due) : (admitTag t d s).choices = s.choices := rfl
@[simp] theorem admitTag_notice (s : State) (t : Tag) (d : Due) : (admitTag t d s).notice = s.notice := rfl
@[simp] theorem admitTag_pending (s : State) (t : Tag) (d : Due) : (admitTag t d s).pending = s.pending := rfl

@[simp] theorem modWrite_windows (s : State) (r : Nat) (f : WriteEntry → WriteEntry) : (modWrite r f s).windows = s.windows := rfl
@[simp] theorem modWrite_passLeg (s : State) (r : Nat) (f : WriteEntry → WriteEntry) : (modWrite r f s).passLeg = s.passLeg := rfl
@[simp] theorem modWrite_hold (s : State) (r : Nat) (f : WriteEntry → WriteEntry) : (modWrite r f s).hold = s.hold := rfl
@[simp] theorem modWrite_reads (s : State) (r : Nat) (f : WriteEntry → WriteEntry) : (modWrite r f s).reads = s.reads := rfl
@[simp] theorem modWrite_store (s : State) (r : Nat) (f : WriteEntry → WriteEntry) : (modWrite r f s).store = s.store := rfl
@[simp] theorem modWrite_jobs (s : State) (r : Nat) (f : WriteEntry → WriteEntry) : (modWrite r f s).jobs = s.jobs := rfl
@[simp] theorem modWrite_nextJob (s : State) (r : Nat) (f : WriteEntry → WriteEntry) : (modWrite r f s).nextJob = s.nextJob := rfl
@[simp] theorem modWrite_legs (s : State) (r : Nat) (f : WriteEntry → WriteEntry) : (modWrite r f s).legs = s.legs := rfl
@[simp] theorem modWrite_link (s : State) (r : Nat) (f : WriteEntry → WriteEntry) : (modWrite r f s).link = s.link := rfl
@[simp] theorem modWrite_events (s : State) (r : Nat) (f : WriteEntry → WriteEntry) : (modWrite r f s).events = s.events := rfl
@[simp] theorem modWrite_health (s : State) (r : Nat) (f : WriteEntry → WriteEntry) : (modWrite r f s).health = s.health := rfl
@[simp] theorem modWrite_port (s : State) (r : Nat) (f : WriteEntry → WriteEntry) : (modWrite r f s).port = s.port := rfl
@[simp] theorem modWrite_resetAsserted (s : State) (r : Nat) (f : WriteEntry → WriteEntry) : (modWrite r f s).resetAsserted = s.resetAsserted := rfl
@[simp] theorem modWrite_nextRef (s : State) (r : Nat) (f : WriteEntry → WriteEntry) : (modWrite r f s).nextRef = s.nextRef := rfl
@[simp] theorem modWrite_choices (s : State) (r : Nat) (f : WriteEntry → WriteEntry) : (modWrite r f s).choices = s.choices := rfl
@[simp] theorem modWrite_notice (s : State) (r : Nat) (f : WriteEntry → WriteEntry) : (modWrite r f s).notice = s.notice := rfl
@[simp] theorem modWrite_pending (s : State) (r : Nat) (f : WriteEntry → WriteEntry) : (modWrite r f s).pending = s.pending := rfl

@[simp] theorem modRead_windows (s : State) (r : Nat) (f : ReadEntry → ReadEntry) : (modRead r f s).windows = s.windows := rfl
@[simp] theorem modRead_passLeg (s : State) (r : Nat) (f : ReadEntry → ReadEntry) : (modRead r f s).passLeg = s.passLeg := rfl
@[simp] theorem modRead_writes (s : State) (r : Nat) (f : ReadEntry → ReadEntry) : (modRead r f s).writes = s.writes := rfl
@[simp] theorem modRead_hold (s : State) (r : Nat) (f : ReadEntry → ReadEntry) : (modRead r f s).hold = s.hold := rfl
@[simp] theorem modRead_store (s : State) (r : Nat) (f : ReadEntry → ReadEntry) : (modRead r f s).store = s.store := rfl
@[simp] theorem modRead_jobs (s : State) (r : Nat) (f : ReadEntry → ReadEntry) : (modRead r f s).jobs = s.jobs := rfl
@[simp] theorem modRead_nextJob (s : State) (r : Nat) (f : ReadEntry → ReadEntry) : (modRead r f s).nextJob = s.nextJob := rfl
@[simp] theorem modRead_legs (s : State) (r : Nat) (f : ReadEntry → ReadEntry) : (modRead r f s).legs = s.legs := rfl
@[simp] theorem modRead_link (s : State) (r : Nat) (f : ReadEntry → ReadEntry) : (modRead r f s).link = s.link := rfl
@[simp] theorem modRead_events (s : State) (r : Nat) (f : ReadEntry → ReadEntry) : (modRead r f s).events = s.events := rfl
@[simp] theorem modRead_health (s : State) (r : Nat) (f : ReadEntry → ReadEntry) : (modRead r f s).health = s.health := rfl
@[simp] theorem modRead_port (s : State) (r : Nat) (f : ReadEntry → ReadEntry) : (modRead r f s).port = s.port := rfl
@[simp] theorem modRead_resetAsserted (s : State) (r : Nat) (f : ReadEntry → ReadEntry) : (modRead r f s).resetAsserted = s.resetAsserted := rfl
@[simp] theorem modRead_nextRef (s : State) (r : Nat) (f : ReadEntry → ReadEntry) : (modRead r f s).nextRef = s.nextRef := rfl
@[simp] theorem modRead_choices (s : State) (r : Nat) (f : ReadEntry → ReadEntry) : (modRead r f s).choices = s.choices := rfl
@[simp] theorem modRead_notice (s : State) (r : Nat) (f : ReadEntry → ReadEntry) : (modRead r f s).notice = s.notice := rfl
@[simp] theorem modRead_pending (s : State) (r : Nat) (f : ReadEntry → ReadEntry) : (modRead r f s).pending = s.pending := rfl

@[simp] theorem modPort_windows (s : State) (f : Port → Port) : (modPort f s).windows = s.windows := rfl
@[simp] theorem modPort_passLeg (s : State) (f : Port → Port) : (modPort f s).passLeg = s.passLeg := rfl
@[simp] theorem modPort_writes (s : State) (f : Port → Port) : (modPort f s).writes = s.writes := rfl
@[simp] theorem modPort_hold (s : State) (f : Port → Port) : (modPort f s).hold = s.hold := rfl
@[simp] theorem modPort_reads (s : State) (f : Port → Port) : (modPort f s).reads = s.reads := rfl
@[simp] theorem modPort_store (s : State) (f : Port → Port) : (modPort f s).store = s.store := rfl
@[simp] theorem modPort_jobs (s : State) (f : Port → Port) : (modPort f s).jobs = s.jobs := rfl
@[simp] theorem modPort_nextJob (s : State) (f : Port → Port) : (modPort f s).nextJob = s.nextJob := rfl
@[simp] theorem modPort_legs (s : State) (f : Port → Port) : (modPort f s).legs = s.legs := rfl
@[simp] theorem modPort_link (s : State) (f : Port → Port) : (modPort f s).link = s.link := rfl
@[simp] theorem modPort_events (s : State) (f : Port → Port) : (modPort f s).events = s.events := rfl
@[simp] theorem modPort_health (s : State) (f : Port → Port) : (modPort f s).health = s.health := rfl
@[simp] theorem modPort_resetAsserted (s : State) (f : Port → Port) : (modPort f s).resetAsserted = s.resetAsserted := rfl
@[simp] theorem modPort_nextRef (s : State) (f : Port → Port) : (modPort f s).nextRef = s.nextRef := rfl
@[simp] theorem modPort_choices (s : State) (f : Port → Port) : (modPort f s).choices = s.choices := rfl
@[simp] theorem modPort_notice (s : State) (f : Port → Port) : (modPort f s).notice = s.notice := rfl
@[simp] theorem modPort_pending (s : State) (f : Port → Port) : (modPort f s).pending = s.pending := rfl

@[simp] theorem settle_windows (s : State) : (settle s).windows = s.windows := rfl
@[simp] theorem settle_passLeg (s : State) : (settle s).passLeg = s.passLeg := rfl
@[simp] theorem settle_writes (s : State) : (settle s).writes = s.writes := rfl
@[simp] theorem settle_hold (s : State) : (settle s).hold = s.hold := rfl
@[simp] theorem settle_reads (s : State) : (settle s).reads = s.reads := rfl
@[simp] theorem settle_store (s : State) : (settle s).store = s.store := rfl
@[simp] theorem settle_jobs (s : State) : (settle s).jobs = s.jobs := rfl
@[simp] theorem settle_nextJob (s : State) : (settle s).nextJob = s.nextJob := rfl
@[simp] theorem settle_legs (s : State) : (settle s).legs = s.legs := rfl
@[simp] theorem settle_events (s : State) : (settle s).events = s.events := rfl
@[simp] theorem settle_health (s : State) : (settle s).health = s.health := rfl
@[simp] theorem settle_port (s : State) : (settle s).port = s.port := rfl
@[simp] theorem settle_resetAsserted (s : State) : (settle s).resetAsserted = s.resetAsserted := rfl
@[simp] theorem settle_nextRef (s : State) : (settle s).nextRef = s.nextRef := rfl
@[simp] theorem settle_choices (s : State) : (settle s).choices = s.choices := rfl
@[simp] theorem settle_notice (s : State) : (settle s).notice = s.notice := rfl
@[simp] theorem settle_pending (s : State) : (settle s).pending = s.pending := rfl

@[simp] theorem stall_windows (s : State) (c : StallCause) : (stall c s).windows = s.windows := rfl
@[simp] theorem stall_passLeg (s : State) (c : StallCause) : (stall c s).passLeg = s.passLeg := rfl
@[simp] theorem stall_writes (s : State) (c : StallCause) : (stall c s).writes = s.writes := rfl
@[simp] theorem stall_hold (s : State) (c : StallCause) : (stall c s).hold = s.hold := rfl
@[simp] theorem stall_reads (s : State) (c : StallCause) : (stall c s).reads = s.reads := rfl
@[simp] theorem stall_store (s : State) (c : StallCause) : (stall c s).store = s.store := rfl
@[simp] theorem stall_jobs (s : State) (c : StallCause) : (stall c s).jobs = s.jobs := rfl
@[simp] theorem stall_nextJob (s : State) (c : StallCause) : (stall c s).nextJob = s.nextJob := rfl
@[simp] theorem stall_legs (s : State) (c : StallCause) : (stall c s).legs = s.legs := rfl
@[simp] theorem stall_events (s : State) (c : StallCause) : (stall c s).events = s.events := rfl
@[simp] theorem stall_health (s : State) (c : StallCause) : (stall c s).health = s.health := rfl
@[simp] theorem stall_port (s : State) (c : StallCause) : (stall c s).port = s.port := rfl
@[simp] theorem stall_resetAsserted (s : State) (c : StallCause) : (stall c s).resetAsserted = s.resetAsserted := rfl
@[simp] theorem stall_nextRef (s : State) (c : StallCause) : (stall c s).nextRef = s.nextRef := rfl
@[simp] theorem stall_choices (s : State) (c : StallCause) : (stall c s).choices = s.choices := rfl
@[simp] theorem stall_notice (s : State) (c : StallCause) : (stall c s).notice = s.notice := rfl
@[simp] theorem stall_pending (s : State) (c : StallCause) : (stall c s).pending = s.pending := rfl

@[simp] theorem holdHead_windows (s : State) : (holdHead s).windows = s.windows := rfl
@[simp] theorem holdHead_passLeg (s : State) : (holdHead s).passLeg = s.passLeg := rfl
@[simp] theorem holdHead_writes (s : State) : (holdHead s).writes = s.writes := rfl
@[simp] theorem holdHead_hold (s : State) : (holdHead s).hold = s.hold := rfl
@[simp] theorem holdHead_reads (s : State) : (holdHead s).reads = s.reads := rfl
@[simp] theorem holdHead_store (s : State) : (holdHead s).store = s.store := rfl
@[simp] theorem holdHead_jobs (s : State) : (holdHead s).jobs = s.jobs := rfl
@[simp] theorem holdHead_nextJob (s : State) : (holdHead s).nextJob = s.nextJob := rfl
@[simp] theorem holdHead_legs (s : State) : (holdHead s).legs = s.legs := rfl
@[simp] theorem holdHead_events (s : State) : (holdHead s).events = s.events := rfl
@[simp] theorem holdHead_health (s : State) : (holdHead s).health = s.health := rfl
@[simp] theorem holdHead_port (s : State) : (holdHead s).port = s.port := rfl
@[simp] theorem holdHead_resetAsserted (s : State) : (holdHead s).resetAsserted = s.resetAsserted := rfl
@[simp] theorem holdHead_nextRef (s : State) : (holdHead s).nextRef = s.nextRef := rfl
@[simp] theorem holdHead_choices (s : State) : (holdHead s).choices = s.choices := rfl
@[simp] theorem holdHead_notice (s : State) : (holdHead s).notice = s.notice := rfl
@[simp] theorem holdHead_pending (s : State) : (holdHead s).pending = s.pending := rfl

@[simp] theorem reopen_windows (s : State) : (reopen s).windows = s.windows := rfl
@[simp] theorem reopen_passLeg (s : State) : (reopen s).passLeg = s.passLeg := rfl
@[simp] theorem reopen_writes (s : State) : (reopen s).writes = s.writes := rfl
@[simp] theorem reopen_hold (s : State) : (reopen s).hold = s.hold := rfl
@[simp] theorem reopen_reads (s : State) : (reopen s).reads = s.reads := rfl
@[simp] theorem reopen_store (s : State) : (reopen s).store = s.store := rfl
@[simp] theorem reopen_jobs (s : State) : (reopen s).jobs = s.jobs := rfl
@[simp] theorem reopen_nextJob (s : State) : (reopen s).nextJob = s.nextJob := rfl
@[simp] theorem reopen_legs (s : State) : (reopen s).legs = s.legs := rfl
@[simp] theorem reopen_events (s : State) : (reopen s).events = s.events := rfl
@[simp] theorem reopen_health (s : State) : (reopen s).health = s.health := rfl
@[simp] theorem reopen_resetAsserted (s : State) : (reopen s).resetAsserted = s.resetAsserted := rfl
@[simp] theorem reopen_nextRef (s : State) : (reopen s).nextRef = s.nextRef := rfl
@[simp] theorem reopen_choices (s : State) : (reopen s).choices = s.choices := rfl
@[simp] theorem reopen_notice (s : State) : (reopen s).notice = s.notice := rfl
@[simp] theorem reopen_pending (s : State) : (reopen s).pending = s.pending := rfl

@[simp] theorem useChoice_windows (s : State) : (useChoice s).windows = s.windows := rfl
@[simp] theorem useChoice_passLeg (s : State) : (useChoice s).passLeg = s.passLeg := rfl
@[simp] theorem useChoice_writes (s : State) : (useChoice s).writes = s.writes := rfl
@[simp] theorem useChoice_hold (s : State) : (useChoice s).hold = s.hold := rfl
@[simp] theorem useChoice_reads (s : State) : (useChoice s).reads = s.reads := rfl
@[simp] theorem useChoice_store (s : State) : (useChoice s).store = s.store := rfl
@[simp] theorem useChoice_jobs (s : State) : (useChoice s).jobs = s.jobs := rfl
@[simp] theorem useChoice_nextJob (s : State) : (useChoice s).nextJob = s.nextJob := rfl
@[simp] theorem useChoice_legs (s : State) : (useChoice s).legs = s.legs := rfl
@[simp] theorem useChoice_link (s : State) : (useChoice s).link = s.link := rfl
@[simp] theorem useChoice_events (s : State) : (useChoice s).events = s.events := rfl
@[simp] theorem useChoice_health (s : State) : (useChoice s).health = s.health := rfl
@[simp] theorem useChoice_port (s : State) : (useChoice s).port = s.port := rfl
@[simp] theorem useChoice_resetAsserted (s : State) : (useChoice s).resetAsserted = s.resetAsserted := rfl
@[simp] theorem useChoice_nextRef (s : State) : (useChoice s).nextRef = s.nextRef := rfl
@[simp] theorem useChoice_notice (s : State) : (useChoice s).notice = s.notice := rfl
@[simp] theorem useChoice_pending (s : State) : (useChoice s).pending = s.pending := rfl

end Sys2Proof.Machine
end

