-- ==== Sys2Proof/Laws/Access.lean ====
section
/-! SUPPORT. Reading a record back after an update: windows, leg ports, counters, and the tests that depend on one field only. -/

namespace Sys2Proof.Machine

@[simp] theorem setWin_win_self (s : State) (w : WinIx) (x : Window) : (s.setWin w x).win w = x := by
  simp [State.setWin, State.win]

theorem setWin_win_of_ne (s : State) {w v : WinIx} (x : Window) (h : w ≠ v) : (s.setWin w x).win v = s.win v := by
  have h' : (w : Nat) ≠ (v : Nat) := fun e => h (Fin.ext e)
  simp [State.setWin, State.win, Vector.getElem_set_ne, h']

@[simp] theorem setLeg_leg_self (s : State) (l : LegIx) (p : LegPort) : (s.setLeg l p).leg l = p := by
  simp [State.setLeg, State.leg]

theorem setLeg_leg_of_ne (s : State) {l k : LegIx} (p : LegPort) (h : l ≠ k) : (s.setLeg l p).leg k = s.leg k := by
  have h' : (l : Nat) ≠ (k : Nat) := fun e => h (Fin.ext e)
  simp [State.setLeg, State.leg, Vector.getElem_set_ne, h']

@[simp] theorem setCounters_counters_self (s : State) (l : LegIx) (c : Counters) : (s.setCounters l c).counters l = c := by
  simp [State.setCounters, State.counters]

theorem setCounters_counters_of_ne (s : State) {l k : LegIx} (c : Counters) (h : l ≠ k) :
    (s.setCounters l c).counters k = s.counters k := by
  have h' : (l : Nat) ≠ (k : Nat) := fun e => h (Fin.ext e)
  simp [State.setCounters, State.counters, Vector.getElem_set_ne, h']

@[simp] theorem modWin_win_self (s : State) (w : WinIx) (f : Window → Window) : (modWin w f s).win w = f (s.win w) := by
  simp [modWin]

theorem modWin_win_of_ne (s : State) {w v : WinIx} (f : Window → Window) (h : w ≠ v) : (modWin w f s).win v = s.win v := by
  simp [modWin, setWin_win_of_ne _ _ h]

@[simp] theorem modLeg_leg_self (s : State) (l : LegIx) (f : LegPort → LegPort) : (modLeg l f s).leg l = f (s.leg l) := by
  simp [modLeg]

theorem modLeg_leg_of_ne (s : State) {l k : LegIx} (f : LegPort → LegPort) (h : l ≠ k) : (modLeg l f s).leg k = s.leg k := by
  simp [modLeg, setLeg_leg_of_ne _ _ h]

@[simp] theorem post_win (s : State) (r : EventRec) (w : WinIx) : (post r s).win w = s.win w := rfl
@[simp] theorem post_leg (s : State) (r : EventRec) (l : LegIx) : (post r s).leg l = s.leg l := rfl
@[simp] theorem raise_win (s : State) (w : WinIx) : s.raise.win w = s.win w := rfl
@[simp] theorem raiseHead_win (s : State) (w : WinIx) : s.raiseHead.win w = s.win w := rfl
@[simp] theorem raiseWork_win (s : State) (w : WinIx) : s.raiseWork.win w = s.win w := rfl
@[simp] theorem raise_leg (s : State) (l : LegIx) : s.raise.leg l = s.leg l := rfl
@[simp] theorem raiseHead_leg (s : State) (l : LegIx) : s.raiseHead.leg l = s.leg l := rfl
@[simp] theorem raiseWork_leg (s : State) (l : LegIx) : s.raiseWork.leg l = s.leg l := rfl
@[simp] theorem count_win (s : State) (l : LegIx) (k : Counter) (w : WinIx) : (count l k s).win w = s.win w := rfl
@[simp] theorem count_leg (s : State) (l : LegIx) (k : Counter) (j : LegIx) : (count l k s).leg j = s.leg j := rfl
@[simp] theorem count_counters_self (s : State) (l : LegIx) (k : Counter) :
    (count l k s).counters l = (s.counters l).bump k := by simp [count]
@[simp] theorem modLeg_win (s : State) (l : LegIx) (f : LegPort → LegPort) (w : WinIx) : (modLeg l f s).win w = s.win w := rfl
@[simp] theorem modPort_win (s : State) (f : Port → Port) (w : WinIx) : (modPort f s).win w = s.win w := rfl
@[simp] theorem modPort_leg (s : State) (f : Port → Port) (l : LegIx) : (modPort f s).leg l = s.leg l := rfl
@[simp] theorem modWin_leg (s : State) (w : WinIx) (f : Window → Window) (l : LegIx) : (modWin w f s).leg l = s.leg l := rfl
@[simp] theorem freeSlot_win (s : State) (w : WinIx) (l : LegIx) (v : WinIx) : (freeSlot w l s).win v = s.win v := rfl
@[simp] theorem freeSlot_leg (s : State) (w : WinIx) (l k : LegIx) : (freeSlot w l s).leg k = s.leg k := rfl
@[simp] theorem inReset_raise (s : State) : inReset s.raise = inReset s := rfl
@[simp] theorem inReset_raiseHead (s : State) : inReset s.raiseHead = inReset s := rfl
@[simp] theorem inReset_raiseWork (s : State) : inReset s.raiseWork = inReset s := rfl
@[simp] theorem inReset_post (s : State) (r : EventRec) : inReset (post r s) = inReset s := rfl

end Sys2Proof.Machine
end

