-- ==== Sys2Proof/Laws/Frames.lean ====
section
/-! SUPPORT. What answers, demotions, promotions, releases and their parts never change, said once for each function: the pass-through
setting, job numbers, health counters, the management port, the RESET line, references, free choices and the queue of commands. -/

namespace Sys2Proof.Machine

/-- Two states agree on what no demotion, promotion or release changes. -/
structure Kept (s t : State) : Prop where
  passLeg : t.passLeg = s.passLeg
  nextJob : t.nextJob = s.nextJob
  health : t.health = s.health
  port : t.port = s.port
  resetAsserted : t.resetAsserted = s.resetAsserted
  nextRef : t.nextRef = s.nextRef
  choices : t.choices = s.choices
  pending : t.pending = s.pending

theorem Kept.refl (s : State) : Kept s s := ⟨rfl, rfl, rfl, rfl, rfl, rfl, rfl, rfl⟩

theorem Kept.trans {s t u : State} (h : Kept s t) (k : Kept t u) : Kept s u :=
  ⟨k.passLeg.trans h.passLeg, k.nextJob.trans h.nextJob, k.health.trans h.health, k.port.trans h.port,
    k.resetAsserted.trans h.resetAsserted, k.nextRef.trans h.nextRef, k.choices.trans h.choices, k.pending.trans h.pending⟩

/-- A fold keeps what each of its steps keeps. -/
theorem Kept.foldl {α : Type} {f : State → α → State} (h : ∀ u a, Kept u (f u a)) (as : List α) (s : State) :
    Kept s (as.foldl f s) := by
  induction as generalizing s with
  | nil => exact .refl s
  | cons a as ih => exact (h s a).trans (ih _)

theorem Kept.ite {s t u : State} {c : Prop} [Decidable c] (h : Kept s t) (k : Kept s u) : Kept s (if c then t else u) := by
  split
  · exact h
  · exact k

/-! ## Small updates -/

theorem post_kept (s : State) (r : EventRec) : Kept s (post r s) := ⟨rfl, rfl, rfl, rfl, rfl, rfl, rfl, rfl⟩
theorem raise_kept (s : State) : Kept s (State.raise s) := ⟨rfl, rfl, rfl, rfl, rfl, rfl, rfl, rfl⟩
theorem raiseHead_kept (s : State) : Kept s (State.raiseHead s) := ⟨rfl, rfl, rfl, rfl, rfl, rfl, rfl, rfl⟩
theorem raiseWork_kept (s : State) : Kept s (State.raiseWork s) := ⟨rfl, rfl, rfl, rfl, rfl, rfl, rfl, rfl⟩
theorem modLeg_kept (s : State) (l : LegIx) (f : LegPort → LegPort) : Kept s (modLeg l f s) := ⟨rfl, rfl, rfl, rfl, rfl, rfl, rfl, rfl⟩
theorem modMember_kept (s : State) (w : WinIx) (l : LegIx) (f : Member → Member) : Kept s (modMember w l f s) := ⟨rfl, rfl, rfl, rfl, rfl, rfl, rfl, rfl⟩
theorem modWrite_kept (s : State) (r : Nat) (f : WriteEntry → WriteEntry) : Kept s (modWrite r f s) := ⟨rfl, rfl, rfl, rfl, rfl, rfl, rfl, rfl⟩
theorem modRead_kept (s : State) (r : Nat) (f : ReadEntry → ReadEntry) : Kept s (modRead r f s) := ⟨rfl, rfl, rfl, rfl, rfl, rfl, rfl, rfl⟩
theorem freeSlot_kept (s : State) (w : WinIx) (l : LegIx) : Kept s (freeSlot w l s) := ⟨rfl, rfl, rfl, rfl, rfl, rfl, rfl, rfl⟩
theorem addStale_kept (s : State) (w : WinIx) (l : LegIx) (g : Nat) : Kept s (addStale w l g s) := by
  unfold addStale; repeat' split
  all_goals exact ⟨rfl, rfl, rfl, rfl, rfl, rfl, rfl, rfl⟩
theorem discardWrites_kept (s : State) (w : WinIx) (l : LegIx) : Kept s (discardWrites w l s) := ⟨rfl, rfl, rfl, rfl, rfl, rfl, rfl, rfl⟩
theorem orphanWhere_kept (s : State) (l : LegIx) (own : Owner → Bool) : Kept s (orphanWhere l own s) := ⟨rfl, rfl, rfl, rfl, rfl, rfl, rfl, rfl⟩
theorem modJob_kept (s : State) (f : Job → Job) : Kept s (modJob f s) := by
  unfold modJob; repeat' split
  all_goals exact ⟨rfl, rfl, rfl, rfl, rfl, rfl, rfl, rfl⟩
theorem enqueue_kept (s : State) (l : LegIx) (q : QueueName) (k : ReqKind) (a n : Nat) (d : List Byte) (o : Owner) : Kept s (enqueue l q k a n d o s) := by
  unfold enqueue; repeat' split
  all_goals exact ⟨rfl, rfl, rfl, rfl, rfl, rfl, rfl, rfl⟩

/-! ## Answers -/

theorem answerWrite_kept (s : State) (r : Nat) (a : Answer) : Kept s (answerWrite r a s) := by
  unfold answerWrite; repeat' split
  all_goals exact ⟨rfl, rfl, rfl, rfl, rfl, rfl, rfl, rfl⟩
theorem retireWrite_kept (s : State) (r : Nat) : Kept s (retireWrite r s) := by
  unfold retireWrite; repeat' split
  all_goals exact ⟨rfl, rfl, rfl, rfl, rfl, rfl, rfl, rfl⟩
theorem decideEmptied_kept (s : State) (r : Nat) : Kept s (decideEmptied r s) := by
  unfold decideEmptied; repeat' split
  all_goals first | exact (answerWrite_kept _ _ _).trans (retireWrite_kept _ _) | exact .refl s
theorem decideAll_kept (s : State) (rs : List Nat) : Kept s (decideAll rs s) := Kept.foldl decideEmptied_kept rs s
theorem clearOwed_kept (s : State) (r : Nat) (l : LegIx) : Kept s (clearOwed r l s) := (modWrite_kept _ _ _).trans (raiseWork_kept _)
theorem clearAndRecord_kept (s : State) (w : WinIx) (l : LegIx) (es : List WriteEntry) : Kept s (clearAndRecord w l es s) := by
  induction es generalizing s with
  | nil => exact .refl s
  | cons e es ih =>
    refine Kept.trans ?_ (ih _)
    split
    · exact (clearOwed_kept _ _ _).trans (addStale_kept _ _ _ _)
    · exact clearOwed_kept _ _ _

/-! ## The running job -/

theorem abandonOn_kept (s : State) (l : LegIx) : Kept s (abandonOn s l) := Kept.ite ⟨rfl, rfl, rfl, rfl, rfl, rfl, rfl, rfl⟩ ⟨rfl, rfl, rfl, rfl, rfl, rfl, rfl, rfl⟩
theorem abandonChunks_kept (s : State) : Kept s (abandonChunks s) := by
  unfold abandonChunks
  have h := Kept.foldl abandonOn_kept allLegs s
  generalize allLegs.foldl abandonOn s = u at h ⊢
  exact h.trans ((modJob_kept _ _).trans (raiseWork_kept _))
theorem markReleased_kept (s : State) : Kept s (markReleased s) := ⟨rfl, rfl, rfl, rfl, rfl, rfl, rfl, rfl⟩
theorem setJobs_kept (s : State) (js : List Job) : Kept s { s with jobs := js } := ⟨rfl, rfl, rfl, rfl, rfl, rfl, rfl, rfl⟩
theorem abortJob_kept (s : State) : Kept s (abortJob s) := by
  unfold abortJob; split
  · exact (abandonChunks_kept s).trans ((setJobs_kept _ _).trans (markReleased_kept _))
  · exact .refl s
theorem takeSource_kept (s : State) : Kept s (takeSource s) := by
  unfold takeSource; split
  · exact (modJob_kept _ _).trans (raiseWork_kept _)
  · exact .refl s
theorem restartPass_kept (s : State) : Kept s (restartPass s) :=
  (abandonChunks_kept s).trans ((modJob_kept _ _).trans (takeSource_kept _))

/-! ## Demotions: for whatever takes the released writes, if it keeps them too -/

theorem postChange_kept (s : State) (w : WinIx) (old new : Option Health) : Kept s (postChange w old new s) := by
  unfold postChange; repeat' split
  all_goals exact ⟨rfl, rfl, rfl, rfl, rfl, rfl, rfl, rfl⟩
theorem postHealth_kept (s : State) (w : WinIx) (old : Option Health) : Kept s (postHealth w old s) := postChange_kept _ _ _ _

theorem demoteOne_kept {issue : State → State} (hi : ∀ u, Kept u (issue u)) (s : State) (w : WinIx) (l : LegIx) (c : MemberCause)
    (jc : JobCause) (b : Bool) : Kept s (demoteOne issue w l c jc b s) := by
  unfold demoteOne
  split
  · extract_lets old ended s1 s2 es s3 s4 new s5 s6 s7
    have h1 : Kept s s1 := (modMember_kept _ _ _ _).trans (raise_kept _)
    have h2 : Kept s s2 := Kept.ite (h1.trans (freeSlot_kept _ _ _)) h1
    have h3 : Kept s s3 := h2.trans ((clearAndRecord_kept _ _ _ _).trans (discardWrites_kept _ _ _))
    have h4 : Kept s s4 := Kept.ite (h3.trans (abortJob_kept _)) (Kept.ite (h3.trans (restartPass_kept _)) h3)
    have h5 : Kept s s5 := Kept.ite (h4.trans (hi _)) h4
    have h6 : Kept s s6 := h5.trans (decideAll_kept _ _)
    have h7 : Kept s s7 := by
      cases h : ended with
      | none => simpa only [s7, h] using h6
      | some j => simpa only [s7, h] using h6.trans (post_kept _ _)
    exact h7.trans ((post_kept _ _).trans (postChange_kept _ _ _ _))
  · exact .refl s
theorem lostTarget_kept {issue : State → State} (hi : ∀ u, Kept u (issue u)) (s : State) (w : WinIx) :
    Kept s (lostTarget issue w s) := by
  unfold lostTarget; repeat' split
  all_goals first | exact demoteOne_kept hi _ _ _ _ _ _ | exact .refl s
theorem demoteWith_kept {issue : State → State} (hi : ∀ u, Kept u (issue u)) (s : State) (w : WinIx) (l : LegIx) (c : MemberCause)
    (jc : JobCause) : Kept s (demoteWith issue w l c jc s) := (demoteOne_kept hi _ _ _ _ _ _).trans (lostTarget_kept hi _ _)
theorem demoteHolding_kept (s : State) (w : WinIx) (l : LegIx) (c : MemberCause) (jc : JobCause) :
    Kept s (demoteHolding w l c jc s) := demoteWith_kept .refl s w l c jc

/-! ## Promotions -/

theorem makeCurrent_kept (s : State) (w : WinIx) (l : LegIx) : Kept s (makeCurrent w l s) := ⟨rfl, rfl, rfl, rfl, rfl, rfl, rfl, rfl⟩
theorem makeWhole_kept (s : State) (w : WinIx) (l : LegIx) : Kept s (makeWhole w l s) := ⟨rfl, rfl, rfl, rfl, rfl, rfl, rfl, rfl⟩
theorem promote_kept (s : State) (w : WinIx) (l : LegIx) (c : MemberCause) : Kept s (promote w l c s) :=
  (makeCurrent_kept s w l).trans ((post_kept _ _).trans (postHealth_kept _ _ _))

/-! ## Placing, issue and release -/

theorem withdrawRead_kept (l : LegIx) (s : State) (r : LegRequest) : Kept s (withdrawRead l s r) := by
  unfold withdrawRead; split <;> exact ⟨rfl, rfl, rfl, rfl, rfl, rfl, rfl, rfl⟩
theorem withdrawReads_kept (s : State) (l : LegIx) (a n : Nat) : Kept s (withdrawReads l a n s) :=
  Kept.ite (.refl s) (Kept.trans (modLeg_kept s l _) (Kept.trans (Kept.foldl (withdrawRead_kept l) _ _) (raise_kept _)))
theorem withdrawChunks_kept (s : State) (l : LegIx) (a n : Nat) : Kept s (withdrawChunks l a n s) := by
  unfold withdrawChunks; split
  · exact .refl s
  · exact (modLeg_kept s l _).trans ((modJob_kept _ _).trans (raise_kept _))
theorem placeWrite_kept (s : State) (r : Nat) (l : LegIx) (q : QueueName) : Kept s (placeWrite r l q s) := by
  unfold placeWrite; repeat' split
  · refine Kept.trans ?_ (raiseWork_kept _)
    refine Kept.trans ?_ (modWrite_kept _ _ _)
    refine Kept.trans ?_ (enqueue_kept _ _ _ _ _ _ _ _)
    exact (withdrawReads_kept _ _ _ _).trans (withdrawChunks_kept _ _ _ _)
  all_goals exact .refl s
theorem issueWrite_kept (s : State) (r : Nat) (w : WinIx) (g : Nat) (p : WritePolicy) : Kept s (issueWrite r w g p s) := by
  unfold issueWrite
  refine Kept.trans (Kept.trans (Kept.foldl (fun u (m : Member) => ?_) _ s) (Kept.foldl (fun u (m : Member) => ?_) _ _)) (raiseWork_kept _)
  · exact placeWrite_kept _ _ _ _
  · exact addStale_kept _ _ _ _
theorem lagOverflow_kept (s : State) (w : WinIx) (p : WritePolicy) : Kept s (lagOverflow w p s) := by
  unfold lagOverflow
  refine Kept.ite (Kept.foldl (fun u (m : Member) => ?_) _ s) (.refl s)
  exact Kept.ite (demoteHolding_kept _ _ _ _ _) (.refl _)
theorem reportOpen_kept (s : State) (w : WinIx) (g : Nat) : Kept s (reportOpen w g s) := Kept.ite (modJob_kept _ _) (.refl s)
theorem unhold_kept (s : State) (r : Nat) : Kept s (unhold r s) := ⟨rfl, rfl, rfl, rfl, rfl, rfl, rfl, rfl⟩
theorem refreshAddrs_kept (s : State) (r : Nat) (x : Window) : Kept s (refreshAddrs r x s) := modWrite_kept _ _ _
theorem releaseOne_kept (s : State) (r : Nat) : Kept s (releaseOne r s).state := by
  unfold releaseOne; repeat' split
  · exact modWrite_kept _ _ _
  · exact (unhold_kept _ _).trans (decideEmptied_kept _ _)
  · dsimp only
    split
    · exact (reportOpen_kept _ _ _).trans (lagOverflow_kept _ _ _)
    · exact (reportOpen_kept _ _ _).trans ((lagOverflow_kept _ _ _).trans
        ((refreshAddrs_kept _ _ _).trans ((unhold_kept _ _).trans (issueWrite_kept _ _ _ _ _))))
  all_goals exact .refl s
theorem releaseLoop_kept (n : Nat) (s : State) : Kept s (releaseLoop n s) := by
  induction n generalizing s with
  | zero => exact .refl s
  | succ n ih =>
    unfold releaseLoop; repeat' split
    · exact (releaseOne_kept _ _).trans (ih _)
    · exact releaseOne_kept _ _
    · exact .refl s
theorem resumeRelease_kept (s : State) : Kept s (resumeRelease s) :=
  Kept.ite ((releaseLoop_kept _ s).trans (raiseHead_kept _)) (.refl s)
theorem demote_kept (s : State) (w : WinIx) (l : LegIx) (c : MemberCause) (jc : JobCause) : Kept s (demote w l c jc s) :=
  demoteWith_kept resumeRelease_kept s w l c jc
theorem endIfLost_kept (s : State) (w : WinIx) : Kept s (endIfLost w s) := lostTarget_kept resumeRelease_kept s w
theorem demoteLeg_kept (s : State) (l : LegIx) : Kept s (demoteLeg l s) := Kept.foldl (fun u w => demote_kept u w l _ _) allWindows s

/-! ## The same, field by field -/

@[simp] theorem addStale_passLeg (s : State) (w : WinIx) (l : LegIx) (g : Nat) : (addStale w l g s).passLeg = s.passLeg := (addStale_kept s w l g).passLeg
@[simp] theorem addStale_nextJob (s : State) (w : WinIx) (l : LegIx) (g : Nat) : (addStale w l g s).nextJob = s.nextJob := (addStale_kept s w l g).nextJob
@[simp] theorem addStale_health (s : State) (w : WinIx) (l : LegIx) (g : Nat) : (addStale w l g s).health = s.health := (addStale_kept s w l g).health
@[simp] theorem addStale_port (s : State) (w : WinIx) (l : LegIx) (g : Nat) : (addStale w l g s).port = s.port := (addStale_kept s w l g).port
@[simp] theorem addStale_resetAsserted (s : State) (w : WinIx) (l : LegIx) (g : Nat) : (addStale w l g s).resetAsserted = s.resetAsserted := (addStale_kept s w l g).resetAsserted
@[simp] theorem addStale_nextRef (s : State) (w : WinIx) (l : LegIx) (g : Nat) : (addStale w l g s).nextRef = s.nextRef := (addStale_kept s w l g).nextRef
@[simp] theorem addStale_choices (s : State) (w : WinIx) (l : LegIx) (g : Nat) : (addStale w l g s).choices = s.choices := (addStale_kept s w l g).choices
@[simp] theorem addStale_pending (s : State) (w : WinIx) (l : LegIx) (g : Nat) : (addStale w l g s).pending = s.pending := (addStale_kept s w l g).pending

@[simp] theorem decideEmptied_passLeg (s : State) (r : Nat) : (decideEmptied r s).passLeg = s.passLeg := (decideEmptied_kept s r).passLeg
@[simp] theorem decideEmptied_nextJob (s : State) (r : Nat) : (decideEmptied r s).nextJob = s.nextJob := (decideEmptied_kept s r).nextJob
@[simp] theorem decideEmptied_health (s : State) (r : Nat) : (decideEmptied r s).health = s.health := (decideEmptied_kept s r).health
@[simp] theorem decideEmptied_port (s : State) (r : Nat) : (decideEmptied r s).port = s.port := (decideEmptied_kept s r).port
@[simp] theorem decideEmptied_resetAsserted (s : State) (r : Nat) : (decideEmptied r s).resetAsserted = s.resetAsserted := (decideEmptied_kept s r).resetAsserted
@[simp] theorem decideEmptied_nextRef (s : State) (r : Nat) : (decideEmptied r s).nextRef = s.nextRef := (decideEmptied_kept s r).nextRef
@[simp] theorem decideEmptied_choices (s : State) (r : Nat) : (decideEmptied r s).choices = s.choices := (decideEmptied_kept s r).choices
@[simp] theorem decideEmptied_pending (s : State) (r : Nat) : (decideEmptied r s).pending = s.pending := (decideEmptied_kept s r).pending

@[simp] theorem clearOwed_passLeg (s : State) (r : Nat) (l : LegIx) : (clearOwed r l s).passLeg = s.passLeg := (clearOwed_kept s r l).passLeg
@[simp] theorem clearOwed_nextJob (s : State) (r : Nat) (l : LegIx) : (clearOwed r l s).nextJob = s.nextJob := (clearOwed_kept s r l).nextJob
@[simp] theorem clearOwed_health (s : State) (r : Nat) (l : LegIx) : (clearOwed r l s).health = s.health := (clearOwed_kept s r l).health
@[simp] theorem clearOwed_port (s : State) (r : Nat) (l : LegIx) : (clearOwed r l s).port = s.port := (clearOwed_kept s r l).port
@[simp] theorem clearOwed_resetAsserted (s : State) (r : Nat) (l : LegIx) : (clearOwed r l s).resetAsserted = s.resetAsserted := (clearOwed_kept s r l).resetAsserted
@[simp] theorem clearOwed_nextRef (s : State) (r : Nat) (l : LegIx) : (clearOwed r l s).nextRef = s.nextRef := (clearOwed_kept s r l).nextRef
@[simp] theorem clearOwed_choices (s : State) (r : Nat) (l : LegIx) : (clearOwed r l s).choices = s.choices := (clearOwed_kept s r l).choices
@[simp] theorem clearOwed_pending (s : State) (r : Nat) (l : LegIx) : (clearOwed r l s).pending = s.pending := (clearOwed_kept s r l).pending

@[simp] theorem demoteHolding_passLeg (s : State) (w : WinIx) (l : LegIx) (c : MemberCause) (jc : JobCause) : (demoteHolding w l c jc s).passLeg = s.passLeg := (demoteHolding_kept s w l c jc).passLeg
@[simp] theorem demoteHolding_nextJob (s : State) (w : WinIx) (l : LegIx) (c : MemberCause) (jc : JobCause) : (demoteHolding w l c jc s).nextJob = s.nextJob := (demoteHolding_kept s w l c jc).nextJob
@[simp] theorem demoteHolding_health (s : State) (w : WinIx) (l : LegIx) (c : MemberCause) (jc : JobCause) : (demoteHolding w l c jc s).health = s.health := (demoteHolding_kept s w l c jc).health
@[simp] theorem demoteHolding_port (s : State) (w : WinIx) (l : LegIx) (c : MemberCause) (jc : JobCause) : (demoteHolding w l c jc s).port = s.port := (demoteHolding_kept s w l c jc).port
@[simp] theorem demoteHolding_resetAsserted (s : State) (w : WinIx) (l : LegIx) (c : MemberCause) (jc : JobCause) : (demoteHolding w l c jc s).resetAsserted = s.resetAsserted := (demoteHolding_kept s w l c jc).resetAsserted
@[simp] theorem demoteHolding_nextRef (s : State) (w : WinIx) (l : LegIx) (c : MemberCause) (jc : JobCause) : (demoteHolding w l c jc s).nextRef = s.nextRef := (demoteHolding_kept s w l c jc).nextRef
@[simp] theorem demoteHolding_choices (s : State) (w : WinIx) (l : LegIx) (c : MemberCause) (jc : JobCause) : (demoteHolding w l c jc s).choices = s.choices := (demoteHolding_kept s w l c jc).choices
@[simp] theorem demoteHolding_pending (s : State) (w : WinIx) (l : LegIx) (c : MemberCause) (jc : JobCause) : (demoteHolding w l c jc s).pending = s.pending := (demoteHolding_kept s w l c jc).pending

@[simp] theorem demote_passLeg (s : State) (w : WinIx) (l : LegIx) (c : MemberCause) (jc : JobCause) : (demote w l c jc s).passLeg = s.passLeg := (demote_kept s w l c jc).passLeg
@[simp] theorem demote_nextJob (s : State) (w : WinIx) (l : LegIx) (c : MemberCause) (jc : JobCause) : (demote w l c jc s).nextJob = s.nextJob := (demote_kept s w l c jc).nextJob
@[simp] theorem demote_health (s : State) (w : WinIx) (l : LegIx) (c : MemberCause) (jc : JobCause) : (demote w l c jc s).health = s.health := (demote_kept s w l c jc).health
@[simp] theorem demote_port (s : State) (w : WinIx) (l : LegIx) (c : MemberCause) (jc : JobCause) : (demote w l c jc s).port = s.port := (demote_kept s w l c jc).port
@[simp] theorem demote_resetAsserted (s : State) (w : WinIx) (l : LegIx) (c : MemberCause) (jc : JobCause) : (demote w l c jc s).resetAsserted = s.resetAsserted := (demote_kept s w l c jc).resetAsserted
@[simp] theorem demote_nextRef (s : State) (w : WinIx) (l : LegIx) (c : MemberCause) (jc : JobCause) : (demote w l c jc s).nextRef = s.nextRef := (demote_kept s w l c jc).nextRef
@[simp] theorem demote_choices (s : State) (w : WinIx) (l : LegIx) (c : MemberCause) (jc : JobCause) : (demote w l c jc s).choices = s.choices := (demote_kept s w l c jc).choices
@[simp] theorem demote_pending (s : State) (w : WinIx) (l : LegIx) (c : MemberCause) (jc : JobCause) : (demote w l c jc s).pending = s.pending := (demote_kept s w l c jc).pending

@[simp] theorem resumeRelease_passLeg (s : State) : (resumeRelease s).passLeg = s.passLeg := (resumeRelease_kept s).passLeg
@[simp] theorem resumeRelease_nextJob (s : State) : (resumeRelease s).nextJob = s.nextJob := (resumeRelease_kept s).nextJob
@[simp] theorem resumeRelease_health (s : State) : (resumeRelease s).health = s.health := (resumeRelease_kept s).health
@[simp] theorem resumeRelease_port (s : State) : (resumeRelease s).port = s.port := (resumeRelease_kept s).port
@[simp] theorem resumeRelease_resetAsserted (s : State) : (resumeRelease s).resetAsserted = s.resetAsserted := (resumeRelease_kept s).resetAsserted
@[simp] theorem resumeRelease_nextRef (s : State) : (resumeRelease s).nextRef = s.nextRef := (resumeRelease_kept s).nextRef
@[simp] theorem resumeRelease_choices (s : State) : (resumeRelease s).choices = s.choices := (resumeRelease_kept s).choices
@[simp] theorem resumeRelease_pending (s : State) : (resumeRelease s).pending = s.pending := (resumeRelease_kept s).pending

end Sys2Proof.Machine
end

