-- ==== Sys2Proof/Laws/Moves.lean ====
section
/-! SUPPORT. What a step can do, said once: every meaning is a sequence of the moves below. A property that each move keeps is kept
by every step (`step_moves`). -/

namespace Sys2Proof.Machine

open Sys2Proof.Safety

/-! ## Moves of one leg port -/

/-- One move of a leg port's record. `conf` changes nothing that the queue and table bounds speak of. -/
inductive LegMove : LegPort → LegPort → Prop
  | keep (p : LegPort) : LegMove p p
  | conf (p q : LegPort) (hd : q.direct = p.direct) (hl : q.lag = p.lag) (hc : q.copy = p.copy)
      (hi : q.inflight = p.inflight) (hf : q.failures ≤ Config.readFailureLimit ∨ q.failures = p.failures)
      (hn : q.nextAge = p.nextAge) : LegMove p q
  | filter (p : LegPort) (fd fl fc : LegRequest → Bool) :
      LegMove p { p with direct := p.direct.filter fd, lag := p.lag.filter fl, copy := p.copy.filter fc }
  | enter (p : LegPort) (q : QueueName) (r : LegRequest) (h : (p.queue q).length < q.size) (ha : r.age = p.nextAge) :
      LegMove p { p.setQueue q (p.queue q ++ [r]) with nextAge := p.nextAge + 1 }
  | flights (p : LegPort) (f : Flight → Flight) (hf : ∀ x, (f x).number = x.number) :
      LegMove p { p with inflight := p.inflight.map f }
  | free (p : LegPort) (n : SeqNo) : LegMove p (p.freeFlight n)
  | send (p : LegPort) (pos : Fin 8) (q : QueueName) (r : LegRequest) (h : p.maySend = true) : LegMove p (p.send pos q r)
  | clear (p : LegPort) : LegMove p p.abandonAll
  | cold (p : LegPort) : LegMove p p.coldReset

/-! ## Moves of the state -/

/-- What the bounds say of a job record. -/
def Job.inBounds (j : Job) : Prop := j.chunks.length ≤ Config.chunksInProcess ∧ ∀ p, j.pass = some p → 1 ≤ p ∧ p ≤ Config.closedPass

/-- A window record changes and its slots on the legs in `kept` may keep their entries (R87); if the slots of a DISABLED window had no
state (R23), they have none after it. -/
def Window.Keeps (x y : Window) (kept : LegIx → Bool) : Prop :=
  Vacant x → Vacant y ∧ ∀ l, kept l = true → MayList x l → MayList y l

/-- One move of the device: a change of one piece of state, with what guards it. -/
inductive Move : State → State → Prop
  | post (s : State) (r : EventRec) : Move s (post r s)
  | pop (s : State) : Move s { s with events := s.events.pop }
  | config (s : State) (en : Bool) (m : BitVec 16) (h : m &&& 0xF001 = 0) :
      Move s { s with events := { s.events with alertEnable := en, mask := m } }
  | count (s : State) (l : LegIx) (k : Counter) : Move s (count l k s)
  | clearCounters (s : State) (l : LegIx) : Move s (s.setCounters l Counters.zero)
  | window (s : State) (w : WinIx) (x : Window) (h : (s.win w).Keeps x fun _ => true) : Move s (s.setWin w x)
  | windowFree (s : State) (w : WinIx) (x : Window) (l : LegIx) (h : (s.win w).Keeps x (· != l)) :
      Move s (freeSlot w l (s.setWin w x))
  | windowClose (s : State) (w : WinIx) (x : Window) (h : (s.win w).Keeps x fun _ => false) :
      Move s { s.setWin w x with store := s.store.filter fun e => e.window != w }
  | passLeg (s : State) (p : Option LegIx) : Move s { s with passLeg := p }
  | dropStale (s : State) (p : StaleEntry → Bool) : Move s { s with store := s.store.filter p }
  | insertStale (s : State) (e : StaleEntry) (h : s.store.length < Config.storeSize) (hm : MayList (s.win e.window) e.leg) :
      Move s { s with store := storeInsert e s.store }
  | leg (s : State) (l : LegIx) (q : LegPort) (h : LegMove (s.leg l) q) : Move s (s.setLeg l q)
  | mapWrites (s : State) (f : WriteEntry → WriteEntry) (h : ∀ e, (f e).ref = e.ref) : Move s { s with writes := s.writes.map f }
  | dropWrites (s : State) (p : WriteEntry → Bool) : Move s { s with writes := s.writes.filter p }
  | addWrite (s : State) (e : WriteEntry) (h : s.writes.length < Config.writeTrackerSize) (hr : e.ref = s.nextRef) :
      Move s (addWrite e s)
  | addHold (s : State) (r : Nat) (h : s.hold.length < Config.holdQueueSize) : Move s { s with hold := s.hold ++ [r] }
  | dropHold (s : State) (p : Nat → Bool) : Move s { s with hold := s.hold.filter p }
  | mapReads (s : State) (f : ReadEntry → ReadEntry) (h : ∀ e, (f e).ref = e.ref) : Move s { s with reads := s.reads.map f }
  | dropReads (s : State) (p : ReadEntry → Bool) : Move s { s with reads := s.reads.filter p }
  | addRead (s : State) (e : ReadEntry) (h : s.reads.length < Config.readTrackerSize) (hr : e.ref = s.nextRef) :
      Move s { s with reads := s.reads ++ [e], nextRef := s.nextRef + 1 }
  | placeJob (s : State) (j : Job) (h : s.jobs.length < Config.jobQueueSize) (hr : j.running = false) (hb : j.inBounds) :
      Move s { s with jobs := s.jobs ++ [j] }
  | dropJobs (s : State) (p : Job → Bool) : Move s { s with jobs := s.jobs.filter p }
  | headJob (s : State) (j k : Job) (js : List Job) (h : s.jobs = j :: js) (hb : j.inBounds → k.inBounds) :
      Move s { s with jobs := k :: js }
  | popJob (s : State) : Move s { s with jobs := s.jobs.tail }
  | nextJob (s : State) (n : BitVec 8) : Move s { s with nextJob := n }
  | notice (s : State) (n : Notice) : Move s { s with notice := n }
  | choices (s : State) (n : Nat) : Move s { s with choices := n }
  | port (s : State) (q : Port) (h : q.progress = s.port.progress) : Move s { s with port := q }
  | settle (s : State) (h : inReset s = false) : Move s (settle s)
  | stall (s : State) (c : StallCause) (h : inReset s = false) (hh : s.link.head.isSome = true) (hn : c ≠ .none)
      (hr : c ≠ .resetting) : Move s (stall c s)
  | holdHead (s : State) (h : inReset s = true) : Move s (holdHead s)
  | takeHead (s : State) (r : Request) (rs : List Request) (h : s.link.head = none) :
      Move s { s with link := { s.link with head := some r, waiting := rs } }
  | arrive (s : State) (r : Request) : Move s { s with link := { s.link with waiting := s.link.waiting ++ [r] } }
  | pushAnswers (s : State) (as : List AnswerItem) : Move s (pushAnswers as s)
  | admitTag (s : State) (t : Tag) (d : Due) (h : tagInUse s t = false) : Move s (admitTag t d s)
  | answerTaken (s : State) (a : AnswerItem) (rest : List AnswerItem) (h : s.link.answers = a :: rest) :
      Move s { s with link := { s.link with answers := rest, tags := countDown a.tag s.link.tags } }
  | resetStart (s : State) (h : inReset s = false) : Move s (resetStart s)
  | resetEmpty (s : State) (h : inReset s = true) : Move s (resetEmpty s)
  | reopen (s : State) (h : s.port.progress = .clearing) : Move s (reopen s)
  | cold (s : State) (b : Bool) : Move s { coldReset s with resetAsserted := b }

/-- A sequence of moves. -/
inductive Moves : State → State → Prop
  | refl (s : State) : Moves s s
  | step {s t u : State} (h : Moves s t) (m : Move t u) : Moves s u

theorem Moves.trans {s t u : State} (h : Moves s t) (k : Moves t u) : Moves s u := by
  induction k with
  | refl => exact h
  | step _ m ih => exact .step ih m

theorem Moves.one {s t : State} (m : Move s t) : Moves s t := .step (.refl s) m

/-- A property that every move keeps is kept by every sequence of moves. -/
theorem Moves.keep {P : State → Prop} (hP : ∀ s t, Move s t → P s → P t) {s t : State} (h : Moves s t) (hs : P s) : P t := by
  induction h with
  | refl => exact hs
  | step _ m ih => exact hP _ _ m ih

theorem Moves.foldl {α : Type} {f : State → α → State} (h : ∀ s a, Moves s (f s a)) (as : List α) (s : State) :
    Moves s (as.foldl f s) := by
  induction as generalizing s with
  | nil => exact .refl s
  | cons a as ih => exact (h s a).trans (ih (f s a))

/-! ## Reset progress: only the reset's own moves change it -/

/-- Moves that leave reset progress alone. -/
theorem inReset_of_progress {s t : State} (h : t.port.progress = s.port.progress) : inReset t = inReset s := by
  simp [inReset, h]

/-! ## Small operations

Each lemma says: if moves lead from `s` to `t`, they lead on to the operation's result at `t`. -/

variable {s t : State}

theorem Moves.raise (h : Moves s t) : Moves s t.raise := .step h (.notice t _)
theorem Moves.raiseHead (h : Moves s t) : Moves s t.raiseHead := .step h (.notice t _)
theorem Moves.raiseWork (h : Moves s t) : Moves s t.raiseWork := .step h (.notice t _)
theorem Moves.post (h : Moves s t) (r : EventRec) : Moves s (Machine.post r t) := .step h (.post t r)
theorem Moves.count (h : Moves s t) (l : LegIx) (k : Counter) : Moves s (Machine.count l k t) := .step h (.count t l k)
theorem Moves.modWin (h : Moves s t) (w : WinIx) (f : Window → Window) (hk : (t.win w).Keeps (f (t.win w)) fun _ => true) :
    Moves s (Machine.modWin w f t) := .step h (.window t w _ hk)
theorem Moves.modLeg (h : Moves s t) (l : LegIx) (f : LegPort → LegPort) (hf : LegMove (t.leg l) (f (t.leg l))) :
    Moves s (Machine.modLeg l f t) := .step h (.leg t l _ hf)
theorem Moves.modWrite (h : Moves s t) (r : Nat) (f : WriteEntry → WriteEntry) (hf : ∀ e, (f e).ref = e.ref) :
    Moves s (Machine.modWrite r f t) := .step h (.mapWrites t _ (fun e => by split <;> simp [hf]))
theorem Moves.modRead (h : Moves s t) (r : Nat) (f : ReadEntry → ReadEntry) (hf : ∀ e, (f e).ref = e.ref) :
    Moves s (Machine.modRead r f t) := .step h (.mapReads t _ (fun e => by split <;> simp [hf]))
theorem Moves.pushAnswers (h : Moves s t) (as : List AnswerItem) : Moves s (Machine.pushAnswers as t) := .step h (.pushAnswers t as)
theorem Moves.pushAnswer (h : Moves s t) (a : AnswerItem) : Moves s (Machine.pushAnswer a t) := .step h (.pushAnswers t [a])
theorem Moves.freeSlot (h : Moves s t) (w : WinIx) (l : LegIx) : Moves s (Machine.freeSlot w l t) := .step h (.dropStale t _)
theorem Moves.removeStale (h : Moves s t) (w : WinIx) (l : LegIx) (g : Nat) : Moves s (Machine.removeStale w l g t) :=
  .step h (.dropStale t _)

/-! ## What a change of a window record leaves its slots -/

theorem Window.keeps_of_members {x y : Window} (hs : y.state = .disabled → x.state = .disabled) (hm : y.members = x.members) :
    x.Keeps y fun _ => true := by
  refine fun hv => ⟨fun hd => ?_, fun l _ hl => ?_⟩
  · rw [hm]; exact hv (hs hd)
  · unfold MayList; rw [hm]; exact hl

theorem find_mapMember {ms : List Member} {l k : LegIx} {f : Member → Member} (hf : ∀ m, (f m).leg = m.leg) :
    (ms.map fun m => if m.leg == l then f m else m).find? (fun m => m.leg == k) =
      (ms.find? fun m => m.leg == k).map fun m => if m.leg == l then f m else m := by
  have hg : (fun m => (if m.leg == l then f m else m).leg == k) = fun m : Member => m.leg == k := by
    funext m; split <;> simp [hf]
  rw [List.find?_map]
  simp only [Function.comp_def, hg]

/-- A change of one slot: if it gives a slot without state none, or the window is not DISABLED, the other slots keep their entries; this
one does too if the change leaves it STALE or REBUILDING and WHOLE clear. -/
theorem Window.keeps_mapMember {x : Window} {l : LegIx} {f : Member → Member} {kept : LegIx → Bool} (hf : ∀ m, (f m).leg = m.leg)
    (hs : (Vacant x → x.state ≠ .disabled) ∨ ∀ m, m.state = none → (f m).state = none)
    (hl : kept l = true → ∀ m, (m.state = some .stale ∨ m.state = some .rebuilding) ∧ m.whole = false →
      ((f m).state = some .stale ∨ (f m).state = some .rebuilding) ∧ (f m).whole = false) :
    x.Keeps { x with members := x.members.map fun m => if m.leg == l then f m else m } kept := by
  refine fun hv => ⟨fun hd => ?_, fun k hk ⟨m, hm, h⟩ => ?_⟩
  · intro m hm
    obtain ⟨a, ha, rfl⟩ := List.mem_map.mp hm
    have hn := hv hd a ha
    rcases hs with hs | hs
    · exact absurd hd (hs hv)
    · split
      · exact hs a hn
      · exact hn
  · refine ⟨if m.leg == l then f m else m, ?_, ?_⟩
    · show List.find? _ (List.map _ _) = _
      rw [find_mapMember hf, hm]; rfl
    · have hmk : m.leg = k := by simpa using List.find?_some hm
      split
      · rename_i he
        have : k = l := by rw [← hmk]; simpa using he
        exact hl (this ▸ hk) m h
      · exact h

/-- A window with a slot that has a state is not DISABLED (R23). -/
theorem slot_active {w : WinIx} {l : LegIx} {st : SlotState} (h : slotState s w l = some st) (hv : Vacant (s.win w)) :
    (s.win w).state ≠ .disabled := by
  intro hd
  unfold slotState memberOf at h
  cases hm : (s.win w).members.find? (fun m => m.leg == l) with
  | none => rw [hm] at h; cases h
  | some m =>
    rw [hm] at h
    have := hv hd m (List.mem_of_find?_eq_some hm)
    simp [this] at h

theorem Moves.modMember (h : Moves s t) (w : WinIx) (l : LegIx) (f : Member → Member) (hf : ∀ m, (f m).leg = m.leg)
    (hs : (Vacant (t.win w) → (t.win w).state ≠ .disabled) ∨ ∀ m, m.state = none → (f m).state = none)
    (hl : ∀ m, (m.state = some .stale ∨ m.state = some .rebuilding) ∧ m.whole = false →
      ((f m).state = some .stale ∨ (f m).state = some .rebuilding) ∧ (f m).whole = false) :
    Moves s (Machine.modMember w l f t) := h.modWin _ _ (Window.keeps_mapMember hf hs fun _ => hl)

/-- A slot changes and its entries are freed, in one move. -/
theorem Moves.freeMember (h : Moves s t) (w : WinIx) (l : LegIx) (f : Member → Member) (hf : ∀ m, (f m).leg = m.leg)
    (hs : (Vacant (t.win w) → (t.win w).state ≠ .disabled) ∨ ∀ m, m.state = none → (f m).state = none) :
    Moves s (Machine.freeSlot w l (Machine.modMember w l f t)) :=
  .step h (.windowFree t w _ l (Window.keeps_mapMember hf hs fun hc => by simp at hc))

theorem Moves.makeWhole (h : Moves s t) (w : WinIx) (l : LegIx) : Moves s (Machine.makeWhole w l t) := by
  refine h.freeMember w l _ ?_ (.inr ?_)
  · exact fun _ => rfl
  · exact fun _ hm => hm

theorem Moves.addStale (h : Moves s t) (w : WinIx) (l : LegIx) (g : Nat) : Moves s (Machine.addStale w l g t) := by
  unfold Machine.addStale
  split
  · rename_i m hm
    split
    · exact h
    · rename_i hc
      simp only [Bool.or_eq_true, bne_iff_ne, ne_eq, not_or, not_not, Bool.not_eq_true] at hc
      split
      · exact h
      · split
        · rename_i hl; exact .step h (.insertStale t _ hl ⟨m, hm, .inl hc.1, hc.2⟩)
        · exact (h.makeWhole w l).post _
  · exact h

theorem Moves.enqueue (h : Moves s t) (l : LegIx) (q : QueueName) (kind : ReqKind) (a n : Nat) (d : List Byte) (o : Owner) :
    Moves s (Machine.enqueue l q kind a n d o t) := by
  unfold Machine.enqueue
  split
  · rename_i hq
    simp only [canEnter, Bool.and_eq_true, decide_eq_true_eq] at hq
    exact h.modLeg _ _ (.enter _ q _ hq.2 rfl)
  · exact h

theorem Moves.discardWrites (h : Moves s t) (w : WinIx) (l : LegIx) : Moves s (Machine.discardWrites w l t) := by
  refine (h.modLeg l _ ?_).raise
  have := LegMove.filter (t.leg l) (fun r => !r.isWriteOf w) (fun r => !r.isWriteOf w) (fun _ => true)
  simpa using this

theorem orphan_number (f : Flight) : f.orphan.number = f.number := by unfold Flight.orphan; split <;> rfl

theorem Moves.orphanWhere (h : Moves s t) (l : LegIx) (own : Owner → Bool) : Moves s (Machine.orphanWhere l own t) :=
  h.modLeg _ _ (.flights _ _ (fun x => by split <;> simp [orphan_number]))

/-! ## Answers of writes -/

theorem Moves.answerWrite (h : Moves s t) (r : Nat) (a : Answer) : Moves s (Machine.answerWrite r a t) := by
  unfold Machine.answerWrite
  split
  · split
    · exact h
    · refine Moves.pushAnswer (Moves.modWrite h _ _ ?_) _
      exact fun _ => rfl
  · exact h

theorem Moves.retireWrite (h : Moves s t) (r : Nat) : Moves s (Machine.retireWrite r t) := by
  unfold Machine.retireWrite
  split
  · split
    · exact (Moves.step h (.dropWrites t _)).raise
    · exact h
  · exact h

theorem Moves.decideEmptied (h : Moves s t) (r : Nat) : Moves s (Machine.decideEmptied r t) := by
  unfold Machine.decideEmptied
  split
  · split
    · split <;> exact (h.answerWrite _ _).retireWrite _
    · exact h
  · exact h

theorem Moves.decideAll (h : Moves s t) (rs : List Nat) : Moves s (Machine.decideAll rs t) :=
  h.trans (Moves.foldl (fun u r => (Moves.refl u).decideEmptied r) rs t)

theorem Moves.clearOwed (h : Moves s t) (r : Nat) (l : LegIx) : Moves s (Machine.clearOwed r l t) :=
  Moves.raiseWork (Moves.modWrite h _ _ (fun _ => rfl))

theorem Moves.clearAndRecord (h : Moves s t) (w : WinIx) (l : LegIx) (es : List WriteEntry) :
    Moves s (Machine.clearAndRecord w l es t) := by
  induction es generalizing t with
  | nil => exact h
  | cons e es ih =>
    unfold Machine.clearAndRecord
    refine ih ?_
    split
    · exact (h.clearOwed _ _).addStale _ _ _
    · exact h.clearOwed _ _

theorem Moves.ackWrite (h : Moves s t) (r : Nat) (l : LegIx) : Moves s (Machine.ackWrite r l t) := by
  unfold Machine.ackWrite
  split
  · split
    · have h1 : Moves s (Machine.modWrite r (fun e => { e with owed := legErase l e.owed, acked := legInsert l e.acked }) t).raiseWork :=
        Moves.raiseWork (Moves.modWrite h _ _ (fun _ => rfl))
      dsimp only
      refine Moves.retireWrite (Moves.decideEmptied ?_ _) _
      split
      · split
        · exact h1.answerWrite _ _
        · exact h1
      · exact h1
    · exact h.count _ _
  · exact h.count _ _

theorem Moves.failWrite (h : Moves s t) (r : Nat) (l : LegIx) : Moves s (Machine.failWrite r l t) := by
  unfold Machine.failWrite
  split
  · split
    · exact (h.clearOwed _ _).decideEmptied _
    · exact h
  · exact h

theorem Moves.clearPassLeg (h : Moves s t) (l : LegIx) : Moves s (Machine.clearPassLeg l t) :=
  h.trans (Moves.foldl (fun u r => ((Moves.refl u).clearOwed r l).decideEmptied r) _ t)

/-! ## Membership -/

theorem Moves.ite {c : Prop} [Decidable c] {a b : State} (ha : Moves s a) (hb : Moves s b) : Moves s (if c then a else b) := by
  split
  · exact ha
  · exact hb

theorem Moves.modJob (h : Moves s t) (f : Job → Job) (hf : ∀ j, j.inBounds → (f j).inBounds) : Moves s (Machine.modJob f t) := by
  unfold Machine.modJob
  split
  · split
    · rename_i j js hj _; exact .step h (.headJob t j (f j) js hj (hf j))
    · exact h
  · exact h

theorem Moves.abandonOn (h : Moves s t) (l : LegIx) : Moves s (Machine.abandonOn t l) := by
  have h1 : Moves s (Machine.orphanWhere l Owner.isChunk
      (Machine.modLeg l (fun p => { p with copy := p.copy.filter fun r => !r.isChunk }) t)) := by
    refine Moves.orphanWhere (Moves.modLeg h l _ ?_) _ _
    have := LegMove.filter (t.leg l) (fun _ => true) (fun _ => true) (fun r => !r.isChunk)
    simpa using this
  exact Moves.ite h1.raise h1

theorem Moves.abandonChunks (h : Moves s t) : Moves s (Machine.abandonChunks t) :=
  Moves.raiseWork (Moves.modJob (h.trans (Moves.foldl (fun u l => (Moves.refl u).abandonOn l) allLegs t)) _
    (fun _ hj => ⟨Nat.zero_le _, hj.2⟩))

theorem Moves.markReleased (h : Moves s t) : Moves s (Machine.markReleased t) :=
  (Moves.step h (.mapWrites t _ (fun e => by split <;> rfl))).raiseHead

theorem Moves.dropSlotJob (h : Moves s t) (w : WinIx) (l : LegIx) : Moves s (Machine.dropSlotJob w l t) := .step h (.dropJobs _ _)

theorem Moves.abortJob (h : Moves s t) : Moves s (Machine.abortJob t) := by
  unfold Machine.abortJob
  split
  · exact (Moves.step h.abandonChunks (.popJob _)).markReleased
  · exact h

theorem Moves.takeSource (h : Moves s t) : Moves s (Machine.takeSource t) := by
  unfold Machine.takeSource
  split
  · exact Moves.raiseWork (Moves.modJob h _ (fun _ hj => hj))
  · exact h

theorem Moves.restartPass (h : Moves s t) : Moves s (Machine.restartPass t) :=
  Moves.takeSource (Moves.modJob h.abandonChunks _ (fun _ hj => hj))

theorem Moves.postChange (h : Moves s t) (w : WinIx) (old new : Option Health) : Moves s (Machine.postChange w old new t) := by
  unfold Machine.postChange
  split
  · exact Moves.ite h (h.post _)
  · exact h

theorem Moves.postHealth (h : Moves s t) (w : WinIx) (old : Option Health) : Moves s (Machine.postHealth w old t) :=
  h.postChange _ _ _

theorem Moves.demoteOne {issue : State → State} (hi : ∀ u, Moves u (issue u)) (h : Moves s t) (w : WinIx) (l : LegIx)
    (c : MemberCause) (jc : JobCause) (b : Bool) : Moves s (Machine.demoteOne issue w l c jc b t) := by
  unfold Machine.demoteOne
  split
  · rename_i hc
    have ha : Vacant (t.win w) → (t.win w).state ≠ .disabled := by
      simp only [Bool.or_eq_true, beq_iff_eq] at hc
      rcases hc with hc | hc
      · exact slot_active hc
      · exact slot_active hc
    extract_lets old ended s1 s2 es s3 s4 new s5 s6 s7
    have h2 : Moves s s2 := by
      cases b
      · refine Moves.raise (h.modMember w l _ (fun _ => rfl) (.inl ha) ?_)
        exact fun m hm => ⟨.inl rfl, by simpa using hm.2⟩
      · refine Moves.raise (h.freeMember w l (fun m => { m with state := some .stale, whole := m.whole || true }) ?_ (.inl ha))
        exact fun _ => rfl
    have h3 : Moves s s3 := (h2.clearAndRecord w l es).discardWrites w l
    have h4 : Moves s s4 := Moves.ite h3.abortJob (Moves.ite h3.restartPass h3)
    have h5 : Moves s s5 := Moves.ite (h4.trans (hi _)) h4
    have h6 : Moves s s6 := h5.decideAll _
    have h7 : Moves s s7 := by
      cases he : ended with
      | none => simpa only [s7, he] using h6
      | some j => simpa only [s7, he] using h6.post _
    exact (h7.post _).postChange _ _ _
  · exact h

theorem Moves.lostTarget {issue : State → State} (hi : ∀ u, Moves u (issue u)) (h : Moves s t) (w : WinIx) :
    Moves s (Machine.lostTarget issue w t) := by
  unfold Machine.lostTarget
  split
  · exact Moves.ite (h.demoteOne hi _ _ _ _ _) h
  · exact h

theorem Moves.demoteWith {issue : State → State} (hi : ∀ u, Moves u (issue u)) (h : Moves s t) (w : WinIx) (l : LegIx)
    (c : MemberCause) (jc : JobCause) : Moves s (Machine.demoteWith issue w l c jc t) :=
  (h.demoteOne hi w l c jc false).lostTarget hi w

theorem Moves.demoteHolding (h : Moves s t) (w : WinIx) (l : LegIx) (c : MemberCause) (jc : JobCause) :
    Moves s (Machine.demoteHolding w l c jc t) := h.demoteWith .refl w l c jc

theorem newJob_inBounds (n : BitVec 8) (w : WinIx) (l : LegIx) (m : JobMode) : (newJob n w l m).inBounds :=
  ⟨Nat.zero_le _, fun _ h => by cases h⟩

theorem Moves.placeJob (h : Moves s t) (w : WinIx) (l : LegIx) (m : JobMode) (hl : t.jobs.length < Config.jobQueueSize) :
    Moves s (Machine.placeJob w l m t) :=
  (Moves.step (Moves.step h (.placeJob t (newJob t.nextJob w l m) hl rfl (newJob_inBounds ..))) (.nextJob _ (t.nextJob + 1))).raiseWork

theorem Moves.queueAuto (h : Moves s t) (w : WinIx) (l : LegIx) : Moves s (Machine.queueAuto w l t) := by
  unfold Machine.queueAuto
  split
  · rename_i hl; exact h.placeJob _ _ _ hl
  · exact h.post _

theorem Moves.queueAutoJobs (h : Moves s t) (w : WinIx) : Moves s (Machine.queueAutoJobs w t) :=
  h.trans (Moves.foldl (fun u _ => Moves.ite ((Moves.refl u).queueAuto _ _) (Moves.refl u)) _ t)

theorem Moves.makeCurrent (h : Moves s t) (w : WinIx) (l : LegIx) (ha : Vacant (t.win w) → (t.win w).state ≠ .disabled) :
    Moves s (Machine.makeCurrent w l t) := by
  refine Moves.raise (h.freeMember w l
    (fun m => { m with state := some .current, whole := false, serial := serialOf t l }) ?_ (.inl ha))
  exact fun _ => rfl

theorem Moves.promote (h : Moves s t) (w : WinIx) (l : LegIx) (c : MemberCause)
    (ha : Vacant (t.win w) → (t.win w).state ≠ .disabled) : Moves s (Machine.promote w l c t) :=
  ((h.makeCurrent w l ha).post _).postHealth _ _

theorem Moves.arrivalJob (h : Moves s t) (w : WinIx) (l : LegIx) : Moves s (Machine.arrivalJob w l t) :=
  Moves.ite (h.queueAuto w l) h

theorem Moves.cleanRejoin (h : Moves s t) (w : WinIx) (l : LegIx) (ha : (t.win w).state ≠ .disabled) :
    Moves s (Machine.cleanRejoin w l t) := by
  unfold Machine.cleanRejoin
  dsimp only
  have h1 := h.promote w l .cleanRejoin fun _ => ha
  exact Moves.ite (h1.queueAutoJobs w) h1

theorem Moves.visitSlot (h : Moves s t) (w : WinIx) (m : Member) (i : Identity) (ha : (t.win w).state ≠ .disabled) :
    Moves s (Machine.visitSlot w m i t) := by
  unfold Machine.visitSlot
  extract_lets changed s1
  have h1 : Moves s s1 := Moves.ite ((h.makeWhole w m.leg).post _) h
  have ha1 : (s1.win w).state ≠ .disabled := by
    cases hc : changed
    · simpa [s1, hc] using ha
    · simpa [s1, hc, Machine.makeWhole, Machine.modMember] using ha
  exact Moves.ite (h1.post _) (Moves.ite (h1.cleanRejoin _ _ ha1) (h1.arrivalJob _ _))

theorem Moves.visitWindow (h : Moves s t) (l : LegIx) (w : WinIx) : Moves s (Machine.visitWindow l t w) := by
  unfold Machine.visitWindow
  split
  · split
    · rename_i hc
      simp only [Bool.and_eq_true, bne_iff_ne, ne_eq] at hc
      exact h.visitSlot _ _ _ hc.1
    · exact h
  · exact h

theorem Moves.visitSlots (h : Moves s t) (l : LegIx) : Moves s (Machine.visitSlots l t) :=
  h.trans (Moves.foldl (fun u w => (Moves.refl u).visitWindow l w) _ t)

end Sys2Proof.Machine
end

