-- ==== Sys2Proof/Laws/Port.lean ====
section
/-! SUPPORT. What a whole frame does to a port that hears it, said once: `receiveFrame_heard` and its companions. -/

namespace Sys2Proof.Machine

open Sys2Proof.Safety

theorem takeByte_first {s : State} {x : Byte} (hc : s.port.condition = .none) (hb : s.port.buffer = []) (hx : x ≠ 0xFF) :
    takeByte s x = { s with port := { s.port with buffer := [x], condition := .receiving, byteTimes := s.port.byteTimes + 1 } } := by
  have hx' : ¬ x = 255#8 := hx
  simp [takeByte, hc, hx', storeByte, modPort, hb, bufferOverlong, bufferComplete]

theorem takeByte_second {s : State} {x y : Byte} (hc : s.port.condition = .receiving) (hb : s.port.buffer = [x]) :
    takeByte s y = { s with port := { s.port with buffer := [x, y], condition := .receiving, byteTimes := s.port.byteTimes + 1 } } := by
  simp [takeByte, hc, storeByte, modPort, hb, bufferOverlong, bufferComplete]

/-- A byte that neither completes the frame nor shows it overlong. -/
theorem takeByte_more {s : State} {x : Byte} (hc : s.port.condition = .receiving)
    (ho : bufferOverlong (s.port.buffer ++ [x]) = false) (hk : bufferComplete (s.port.buffer ++ [x]) = false) :
    takeByte s x =
      { s with port := { s.port with buffer := s.port.buffer ++ [x], condition := .receiving, byteTimes := s.port.byteTimes + 1 } } := by
  simp [takeByte, hc, storeByte, modPort, ho, hk]

theorem getD_two_append (b c : List Byte) (h : 3 ≤ b.length) : (b ++ c).getD 2 0 = b.getD 2 0 := by
  simp [List.getD_eq_getElem?_getD, List.getElem?_append_left (show 2 < b.length by omega)]

/-- Argument bytes are stored one after another while the frame is not complete. -/
theorem foldl_takeByte_args (xs : List Byte) {s : State} (hc : s.port.condition = .receiving) (hl : 3 ≤ s.port.buffer.length)
    (hn : (s.port.buffer.getD 2 0).toNat ≤ 48)
    (hk : s.port.buffer.length + xs.length < 4 + (s.port.buffer.getD 2 0).toNat) :
    xs.foldl takeByte s =
      { s with port := { s.port with buffer := s.port.buffer ++ xs, byteTimes := s.port.byteTimes + xs.length } } := by
  induction xs generalizing s with
  | nil => simp
  | cons x xs ih =>
    simp only [List.length_cons] at hk
    have hg : (s.port.buffer ++ [x]).getD 2 0 = s.port.buffer.getD 2 0 := getD_two_append _ _ hl
    have ho : bufferOverlong (s.port.buffer ++ [x]) = false := by
      simp only [bufferOverlong, Config.maxArguments, hg, Bool.and_eq_false_iff, decide_eq_false_iff_not]; omega
    have hcmp : bufferComplete (s.port.buffer ++ [x]) = false := by
      simp only [bufferComplete, hg, List.length_append, List.length_singleton]
      simp only [Bool.and_eq_false_iff, decide_eq_false_iff_not, beq_eq_false_iff_ne]
      omega
    rw [List.foldl_cons, takeByte_more hc ho hcmp, ih rfl]
    · simp [hc, Nat.add_assoc, Nat.add_comm]
    · simp; omega
    · show ((s.port.buffer ++ [x]).getD 2 0).toNat ≤ 48
      rw [hg]; exact hn
    · show (s.port.buffer ++ [x]).length + xs.length < 4 + ((s.port.buffer ++ [x]).getD 2 0).toNat
      rw [hg]; simp only [List.length_append, List.length_singleton]; omega

/-- A whole frame, byte by byte, is taken at its check byte (R178). -/
theorem foldl_takeByte_frame {s : State} {code seq check : Byte} {args : List Byte} (hc : s.port.condition = .none)
    (hb : s.port.buffer = []) (hx : code ≠ 0xFF) (ha : args.length ≤ 48) :
    (wholeFrame code seq args check).foldl takeByte s =
      completeFrame code seq args check (heardWith code seq args check s) := by
  have hlen : (BitVec.ofNat 8 args.length : Byte).toNat = args.length := by
    simp [BitVec.toNat_ofNat]; omega
  unfold wholeFrame
  rw [List.foldl_cons, takeByte_first hc hb hx, List.foldl_cons, takeByte_second rfl rfl, List.foldl_cons]
  rw [takeByte_more (x := BitVec.ofNat 8 args.length) rfl
    (by simp [bufferOverlong, Config.maxArguments, hlen]; omega)
    (by simp [bufferComplete, hlen]; omega)]
  rw [List.foldl_append, foldl_takeByte_args args rfl (by simp) (by simp [hlen]; omega) (by simp [hlen])]
  simp only [List.foldl_cons, List.foldl_nil, List.cons_append, List.nil_append]
  have hcomplete : bufferComplete (code :: seq :: BitVec.ofNat 8 args.length :: (args ++ [check])) = true := by
    simp [bufferComplete, hlen]; omega
  have hover : bufferOverlong (code :: seq :: BitVec.ofNat 8 args.length :: (args ++ [check])) = false := by
    simp [bufferOverlong, Config.maxArguments, hlen]; omega
  simp only [takeByte, storeByte, modPort, List.cons_append, hover, hcomplete, heardWith, wholeFrame]
  have hb : s.port.byteTimes + 1 + 1 + 1 + args.length + 1 = s.port.byteTimes + (args.length + 4) := by omega
  rw [hb]
  simp

theorem xorBytes_append (as bs : List Byte) : xorBytes (as ++ bs) = xorBytes as ^^^ xorBytes bs := by
  unfold xorBytes
  rw [List.foldl_append]
  generalize as.foldl (· ^^^ ·) 0 = a
  have h : ∀ (bs : List Byte) (a b : Byte), bs.foldl (· ^^^ ·) (a ^^^ b) = a ^^^ bs.foldl (· ^^^ ·) b := by
    intro bs
    induction bs with
    | nil => intro a b; rfl
    | cons x xs ih => intro a b; simp only [List.foldl_cons, BitVec.xor_assoc]; exact ih a (b ^^^ x)
  have := h bs a 0
  simpa using this

/-- The check byte of a frame makes the exclusive-or of all its bytes zero (R179). -/
theorem xorBytes_goodCheck (code seq : Byte) (args : List Byte) :
    xorBytes (wholeFrame code seq args (goodCheck code seq args)) = 0 := by
  have h : wholeFrame code seq args (goodCheck code seq args) =
      (code :: seq :: BitVec.ofNat 8 args.length :: args) ++ [goodCheck code seq args] := rfl
  rw [h, xorBytes_append]
  simp [goodCheck, xorBytes]

theorem frameBytes_eq (code seq : Byte) (args : List Byte) :
    frameBytes code seq args = wholeFrame code seq args (goodCheck code seq args) := rfl

/-- A well-checked frame that the port hears is carried out and answered (R178, R181). -/
theorem receiveFrame_heard {s : State} {code seq : Byte} {args : List Byte} (h : Listening s) (hx : code ≠ 0xFF)
    (ha : args.length ≤ 48) :
    receiveFrame code seq args s = respond seq (carryOut code args (heard code seq args s)) := by
  obtain ⟨hs, hr, hc, hb, hg⟩ := h
  unfold receiveFrame receive
  rw [frameBytes_eq, foldl_takeByte_frame hc hb hx ha]
  have hgood : xorBytes (code :: seq :: BitVec.ofNat 8 args.length :: args ++ [goodCheck code seq args]) = 0 :=
    xorBytes_goodCheck code seq args
  unfold completeFrame
  rw [hgood]
  simp [hs, hr, heardWith, hg, heard]

/-- In the guard of 1 ms a frame is neither carried out nor answered (R193). -/
theorem receive_inGuard {s : State} {code seq check : Byte} {args : List Byte} (h : ListeningInGuard s) (hx : code ≠ 0xFF)
    (ha : args.length ≤ 48) :
    receive (wholeFrame code seq args check) s = heardWith code seq args check s := by
  obtain ⟨hs, hr, hc, hb, hg⟩ := h
  unfold receive
  rw [foldl_takeByte_frame hc hb hx ha]
  simp [completeFrame, hs, hr, heardWith, hg]

/-- A frame whose bytes do not exclusive-or to zero is answered FRAME (R179). -/
theorem receive_badCheck {s : State} {code seq check : Byte} {args : List Byte} (h : Listening s) (hx : code ≠ 0xFF)
    (ha : args.length ≤ 48) (hk : xorBytes (wholeFrame code seq args check) ≠ 0) :
    receive (wholeFrame code seq args check) s = answered seq .frame [] (heardWith code seq args check s) := by
  obtain ⟨hs, hr, hc, hb, hg⟩ := h
  unfold receive
  rw [foldl_takeByte_frame hc hb hx ha]
  have hk' : xorBytes (code :: seq :: BitVec.ofNat 8 args.length :: args ++ [check]) ≠ 0 := hk
  have hk2 : (xorBytes (code :: seq :: BitVec.ofNat 8 args.length :: args ++ [check]) != 0) = true := by simpa using hk'
  unfold completeFrame
  rw [hk2]
  simp [hs, hr, heardWith, hg, answered, respond, frameFailure, modPort]

/-- No frame is taken outside an assertion or while RESET is asserted (R177). -/
theorem receive_deaf {s : State} (h : s.port.selected = false ∨ s.resetAsserted = true) (bs : List Byte) : receive bs s = s := by
  unfold receive
  rcases h with h | h <;> simp [h]

/-- After a complete, overlong or fetching assertion's deciding byte, bytes only take their byte times (R178). -/
theorem foldl_takeByte_ignored (bs : List Byte) {s : State}
    (hc : s.port.condition = .complete ∨ s.port.condition = .fetchOnly ∨ s.port.condition = .overlong) :
    bs.foldl takeByte s = { s with port := { s.port with byteTimes := s.port.byteTimes + bs.length } } := by
  induction bs generalizing s with
  | nil => simp
  | cons x xs ih =>
    rw [List.foldl_cons]
    have h1 : takeByte s x = { s with port := { s.port with byteTimes := s.port.byteTimes + 1 } } := by
      unfold takeByte
      rcases hc with h | h | h <;> simp [h, modPort]
    have h2 := ih (s := { s with port := { s.port with byteTimes := s.port.byteTimes + 1 } }) hc
    rw [h1, h2]
    simp [Nat.add_assoc, Nat.add_comm]

/-- A response with a state the frame left alone. -/
theorem respond_refuse (q : Byte) (st : Status) (s : State) : respond q (refuse st s) = answered q st [] s := rfl

theorem respond_report (q : Byte) (rs : List Byte) (s : State) : respond q (report rs s) = answered q .done rs s := rfl

theorem respond_finish (q : Byte) (st : Status) (s : State) : respond q (finish st s) = answered q st [] (react s) := rfl

/-- With no notice due there are no rounds of reactions. -/
theorem reactUpTo_quiet {s : State} (n : Nat) (h : s.notice.any = false) : reactUpTo n s = s := by
  cases n with
  | zero => rfl
  | succ n => unfold reactUpTo; simp [h]

/-- A port that may take no request takes none. -/
theorem intake_closed {s : State} (n : Nat) (h : mayTake s = false) : intake n s = s := by
  cases n with
  | zero => rfl
  | succ n => unfold intake; simp [h]

/-- A step with no notice due has no reactions, if no request can be taken from the link. -/
theorem react_quiet {s : State} (h : s.notice.any = false) (hw : mayTake s = false ∨ s.link.waiting = []) : react s = s := by
  unfold react
  rw [reactUpTo_quiet 64 h]
  rcases hw with hw | hw
  · exact intake_closed _ hw
  · rw [hw]; rfl

end Sys2Proof.Machine
end

