-- ==== Sys2Proof/Laws/Ranges.lean ====
section
/-! SUPPORT. The model's tests on ranges, extents, capacities, health and requests, each against the words of the rule it stands for; and the
argument bytes that name a window or a leg. -/

namespace Sys2Proof.Machine

open Sys2Proof.Safety

theorem mem_allWindows (w : WinIx) : w ∈ allWindows := by revert w; decide

theorem mem_allLegs (l : LegIx) : l ∈ allLegs := by revert l; decide

/-- The overlap test is the sharing of a byte (R11, R71, R139). -/
theorem overlaps_iff {a n b m : Nat} : overlaps a n b m = true ↔ Share a n b m := by
  unfold overlaps Share
  simp only [Bool.and_eq_true, decide_eq_true_eq]
  constructor
  · rintro ⟨⟨⟨h1, h2⟩, h3⟩, h4⟩
    exact ⟨max a b, by omega⟩
  · rintro ⟨x, hx⟩
    omega

theorem overlaps_eq_false {a n b m : Nat} : overlaps a n b m = false ↔ ¬ Share a n b m := by
  rw [← overlaps_iff, Bool.not_eq_true]

/-- The capacity test (R12, R106). -/
theorem fitsLeg_iff {s : State} {l : LegIx} {base size : Nat} : fitsLeg (s.leg l) base size = true ↔ Fits s l base size := by
  unfold fitsLeg Fits
  cases (s.leg l).identity with
  | none => simp
  | some i => exact ⟨fun h => ⟨i, rfl, of_decide_eq_true h⟩, fun ⟨_, hk, h⟩ => by cases hk; exact decide_eq_true h⟩

theorem fitsLeg_eq_false {s : State} {l : LegIx} {base size : Nat} : fitsLeg (s.leg l) base size = false ↔ ¬ Fits s l base size := by
  rw [← fitsLeg_iff, Bool.not_eq_true]

/-- The overlap test of WINDOW_ENABLE on upstream ranges (R11). -/
theorem rangeTaken_iff {s : State} {w : WinIx} : rangeTaken s w (s.win w).base (s.win w).bytes = true ↔ RangeOverlaps s w := by
  unfold rangeTaken RangeOverlaps
  simp only [List.any_eq_true, Bool.and_eq_true, bne_iff_ne, ne_eq, overlaps_iff, Window.bytes, Config.segmentBytes]
  constructor
  · rintro ⟨v, _, ⟨h1, h2⟩, h3⟩; exact ⟨v, h1, h2, h3⟩
  · rintro ⟨v, h1, h2, h3⟩; exact ⟨v, mem_allWindows v, ⟨h1, h2⟩, h3⟩

/-- The overlap test on leg extents (R11, R25). -/
theorem extentTaken_iff {s : State} {skip : Option WinIx} {l : LegIx} {base bytes : Nat} :
    extentTaken s skip l base bytes = true ↔ ExtentOverlaps s (fun v => skip ≠ some v) l base bytes := by
  unfold extentTaken ExtentOverlaps
  simp only [List.any_eq_true, Bool.and_eq_true, bne_iff_ne, ne_eq, overlaps_iff, Window.bytes, Config.segmentBytes, beq_iff_eq]
  constructor
  · rintro ⟨v, _, ⟨h1, h2⟩, m, hm, h3, h4⟩; exact ⟨v, h1, h2, m, hm, h3, h4⟩
  · rintro ⟨v, h1, h2, m, hm, h3, h4⟩; exact ⟨v, mem_allWindows v, ⟨h1, h2⟩, m, hm, h3, h4⟩

/-- A window is LOST when it is not DISABLED and no slot is CURRENT (R20). -/
theorem isLost_iff {x : Window} : isLost x = true ↔ x.state ≠ .disabled ∧ ∀ m ∈ x.members, m.state ≠ some .current := by
  have hc : currentCount x = 0 ↔ ∀ m ∈ x.members, m.state ≠ some .current := by
    simp [currentCount]
  unfold isLost healthOf
  by_cases h1 : x.state = .disabled
  · simp [h1]
  · by_cases h2 : 2 ≤ currentCount x
    · have hn : ¬ currentCount x = 0 := by omega
      simp [h1, h2, ← hc, hn]
    · by_cases h3 : currentCount x = 1
      · have hn : ¬ currentCount x = 0 := by omega
        simp [h1, h3, ← hc]
      · have hn : currentCount x = 0 := by omega
        simp [h1, ← hc, hn]

/-- The owed-write test (R71). -/
theorem owedBlocks_iff {s : State} {l : LegIx} {a n : Nat} : owedBlocks s l a n = true ↔
    ∃ x ∈ s.writes, l ∈ x.owed ∧ ∃ b, addrOn x.legAddrs l = some b ∧ Share a n b x.length := by
  unfold owedBlocks
  simp only [List.any_eq_true, Bool.and_eq_true, List.contains_iff_mem]
  constructor
  · rintro ⟨x, hx, ho, hr⟩
    refine ⟨x, hx, ho, ?_⟩
    cases hb : addrOn x.legAddrs l with
    | none => simp [hb] at hr
    | some b => exact ⟨b, rfl, overlaps_iff.mp (by simpa [hb] using hr)⟩
  · rintro ⟨x, hx, ho, b, hb, hs⟩
    exact ⟨x, hx, ho, by simp [hb, overlaps_iff.mpr hs]⟩

/-- A request is malformed in the words of R154: empty, over 256 bytes, over two aligned blocks, or a write with other than its length
of data. -/
theorem isMalformed_iff {r : Request} : isMalformed r = true ↔ r.length = 0 ∨ 256 < r.length ∨
    r.addr.toNat / 256 ≠ (r.addr.toNat + r.length - 1) / 256 ∨ (r.kind = .write ∧ r.data.length ≠ r.length) := by
  unfold isMalformed
  simp only [Bool.or_eq_true, beq_iff_eq, decide_eq_true_eq, Bool.and_eq_true, bne_iff_ne, ne_eq]
  constructor
  · rintro (((h | h) | h) | h)
    · exact Or.inl h
    · exact Or.inr (Or.inl h)
    · by_cases h0 : r.length = 0
      · exact Or.inl h0
      · right; right; left; omega
    · exact Or.inr (Or.inr (Or.inr h))
  · rintro (h | h | h | h)
    · exact Or.inl (Or.inl (Or.inl h))
    · exact Or.inl (Or.inl (Or.inr h))
    · left
      by_cases h0 : r.length = 0
      · left; left; exact h0
      · by_cases h1 : 256 < r.length
        · left; right; exact h1
        · right; omega
    · exact Or.inr h

/-- FAULT beats as a list over their beat numbers (R83, R151). -/
theorem faultBeats_eq (t : Tag) (n k : Nat) :
    faultBeats t k n = (List.range n).map fun i => .beat t (k + i) .fault (List.replicate 16 0) := by
  induction n generalizing k with
  | zero => rfl
  | succ n ih =>
    rw [faultBeats, ih, List.range_succ_eq_map]
    simp [faultBeat, Nat.add_comm, Nat.add_left_comm]

/-! ## Argument bytes -/

@[simp] theorem winArg_winToByte (w : WinIx) : winArg (winToByte w) = some w := by revert w; decide

@[simp] theorem legArg_legToByte (l : LegIx) : legArg (legToByte l) = some l := by revert l; decide

theorem winArg_eq_none {b : Byte} (h : 15 < b.toNat) : winArg b = none := by unfold winArg; rw [dif_neg (by omega)]

theorem legArg_eq_none {b : Byte} (h : 3 < b.toNat) : legArg b = none := by unfold legArg; rw [dif_neg (by omega)]

/-- The number that four bytes of a number below 2^32 carry. -/
theorem leNat_leBytes_four {n : Nat} (h : n < 2 ^ 32) : leNat (leBytes 4 n) = n := by
  simp [leBytes, leNat]; omega

/-- The number that six bytes of a number below 2^48 carry. -/
theorem leNat_leBytes_six {n : Nat} (h : n < 2 ^ 48) : leNat (leBytes 6 n) = n := by
  simp [leBytes, leNat]; omega

end Sys2Proof.Machine
end

