-- ==== Sys2Proof/Laws/UnitMoves.lean ====
section
/-! SUPPORT. The moves of the units: issue and release of writes, read steering, the rebuild engine, the request link port, the
reactions and the leg ports. -/

namespace Sys2Proof.Machine

open Sys2Proof.Safety

variable {s t : State}

/-! ## Issue and release of writes -/

theorem foldl_withdrawRead_moves (l : LegIx) (rs : List LegRequest) (h : Moves s t) :
    Moves s (rs.foldl (withdrawRead l) t) := by
  refine h.trans (Moves.foldl (fun u r => ?_) rs t)
  unfold withdrawRead
  split
  · refine Moves.modRead (Moves.refl u) _ _ ?_
    exact fun _ => rfl
  · exact .refl u
  · exact .refl u

theorem Moves.withdrawReads (h : Moves s t) (l : LegIx) (a n : Nat) : Moves s (Machine.withdrawReads l a n t) := by
  unfold Machine.withdrawReads
  dsimp only
  refine Moves.ite h (Moves.raise (foldl_withdrawRead_moves _ _ (Moves.modLeg h l _ ?_)))
  have := LegMove.filter (t.leg l) (fun r => !r.readIn a n) (fun _ => true) (fun _ => true)
  simpa using this

theorem Moves.withdrawChunks (h : Moves s t) (l : LegIx) (a n : Nat) : Moves s (Machine.withdrawChunks l a n t) := by
  unfold Machine.withdrawChunks
  split
  · exact h
  · rename_i c cs _
    dsimp only
    refine Moves.raise (Moves.modJob (Moves.modLeg h l _ ?_) _ ?_)
    · have := LegMove.filter (t.leg l) (fun _ => true) (fun _ => true)
        (fun r => !r.chunkRead.any fun k => decide (cs.foldl min c ≤ k))
      simpa using this
    · exact fun j hj => ⟨(List.length_filter_le _ _).trans hj.1, hj.2⟩

theorem Moves.placeWrite (h : Moves s t) (r : Nat) (l : LegIx) (q : QueueName) : Moves s (Machine.placeWrite r l q t) := by
  unfold Machine.placeWrite
  split
  · split
    · refine Moves.ite ?_ h
      dsimp only
      refine Moves.raiseWork (Moves.modWrite (Moves.enqueue ((h.withdrawReads _ _ _).withdrawChunks _ _ _) _ _ _ _ _ _ _) _ _ ?_)
      exact fun _ => rfl
    · exact h
  · exact h

theorem Moves.issueWrite (h : Moves s t) (r : Nat) (w : WinIx) (g : Nat) (p : WritePolicy) :
    Moves s (Machine.issueWrite r w g p t) := by
  unfold Machine.issueWrite
  dsimp only
  refine Moves.raiseWork (Moves.trans (Moves.trans h (Moves.foldl (fun u m => ?_) _ t)) (Moves.foldl (fun u m => ?_) _ _))
  · exact (Moves.refl u).placeWrite _ _ _
  · exact (Moves.refl u).addStale _ _ _

theorem Moves.lagOverflow (h : Moves s t) (w : WinIx) (p : WritePolicy) : Moves s (Machine.lagOverflow w p t) := by
  unfold Machine.lagOverflow
  refine Moves.ite (Moves.trans h (Moves.foldl (fun u m => ?_) _ t)) h
  exact Moves.ite ((Moves.refl u).demoteHolding _ _ _ _) (Moves.refl u)

theorem Moves.reportOpen (h : Moves s t) (w : WinIx) (g : Nat) : Moves s (Machine.reportOpen w g t) := by
  unfold Machine.reportOpen
  refine Moves.ite (Moves.modJob h _ ?_) h
  exact fun _ hj => hj

theorem Moves.unhold (h : Moves s t) (r : Nat) : Moves s (Machine.unhold r t) := by
  unfold Machine.unhold
  have h2 : Moves s (Machine.modWrite r (fun e => { e with held := .no }) t) := by
    refine Moves.modWrite h _ _ ?_
    exact fun _ => rfl
  exact (Moves.step h2 (.dropHold _ _)).raiseHead

theorem Moves.refreshAddrs (h : Moves s t) (r : Nat) (x : Window) : Moves s (Machine.refreshAddrs r x t) := by
  refine Moves.modWrite h _ _ ?_
  exact fun _ => rfl

theorem Moves.releaseOne (h : Moves s t) (r : Nat) : Moves s (Machine.releaseOne r t).state := by
  unfold Machine.releaseOne
  split
  · split
    · split
      · refine Moves.modWrite h _ _ ?_
        exact fun _ => rfl
      · split
        · exact (h.unhold _).decideEmptied _
        · dsimp only
          split
          · exact (h.reportOpen _ _).lagOverflow _ _
          · exact Moves.issueWrite (Moves.unhold (Moves.refreshAddrs ((h.reportOpen _ _).lagOverflow _ _) _ _) _) _ _ _ _
    · exact h
  · exact h

theorem Moves.releaseLoop (h : Moves s t) (n : Nat) : Moves s (Machine.releaseLoop n t) := by
  induction n generalizing t with
  | zero => exact h
  | succ n ih =>
    unfold Machine.releaseLoop
    split
    · exact Moves.ite (ih (h.releaseOne _)) (h.releaseOne _)
    · exact h

theorem Moves.resumeRelease (h : Moves s t) : Moves s (Machine.resumeRelease t) := Moves.ite (h.releaseLoop _).raiseHead h

theorem Moves.resumeIfDue (h : Moves s t) : Moves s (Machine.resumeIfDue t) :=
  Moves.ite (Moves.resumeRelease (.step h (.notice t _))) h

theorem Moves.demote (h : Moves s t) (w : WinIx) (l : LegIx) (c : MemberCause) (jc : JobCause) :
    Moves s (Machine.demote w l c jc t) := h.demoteWith (fun u => (Moves.refl u).resumeRelease) w l c jc

theorem Moves.endIfLost (h : Moves s t) (w : WinIx) : Moves s (Machine.endIfLost w t) :=
  h.lostTarget (fun u => (Moves.refl u).resumeRelease) w

theorem Moves.demoteLeg (h : Moves s t) (l : LegIx) : Moves s (Machine.demoteLeg l t) :=
  h.trans (Moves.foldl (fun u w => (Moves.refl u).demote w l _ _) _ t)

theorem Moves.addWrite (h : Moves s t) (e : WriteEntry) (hl : t.writes.length < Config.writeTrackerSize) (hr : e.ref = t.nextRef) :
    Moves s (Machine.addWrite e t) := .step h (.addWrite t e hl hr)

theorem Moves.acceptWrite (h : Moves s t) (w : WinIx) (r : Request)
    (hs : writeStall t w (segmentOf (t.win w) r.addr.toNat) = none) : Moves s (Machine.acceptWrite w r t) := by
  have hl : t.writes.length < Config.writeTrackerSize := by
    unfold writeStall at hs
    split at hs
    · cases hs
    · omega
  have hh : closedFor t w (segmentOf (t.win w) r.addr.toNat) = true → t.hold.length < Config.holdQueueSize := by
    intro hc
    unfold writeStall at hs
    simp only [hc, Bool.true_and, decide_eq_true_eq] at hs
    split at hs
    · cases hs
    · split at hs
      · cases hs
      · omega
  have h1 := h.addWrite (windowWrite t w r) hl rfl
  unfold Machine.acceptWrite
  dsimp only
  split
  · rename_i hc
    have h2 : Moves s (Machine.modWrite (windowWrite t w r).ref (fun e => { e with held := .held })
        (Machine.addWrite (windowWrite t w r) t)) := by
      refine Moves.modWrite h1 _ _ ?_
      exact fun _ => rfl
    exact .step h2 (.addHold _ _ (hh hc))
  · exact Moves.resumeIfDue (Moves.issueWrite (Moves.lagOverflow (Moves.reportOpen h1 _ _) _ _) _ _ _ _)

theorem Moves.acceptPassWrite (h : Moves s t) (l : LegIx) (r : Request) (hl : t.writes.length < Config.writeTrackerSize) :
    Moves s (Machine.acceptPassWrite l r t) := Moves.placeWrite (h.addWrite _ hl rfl) _ _ _

/-! ## Read steering -/

theorem Moves.placeRead (h : Moves s t) (r : Nat) (l : LegIx) : Moves s (Machine.placeRead r l t) := by
  unfold Machine.placeRead
  split
  · split
    · dsimp only
      split
      · refine Moves.count (Moves.modRead (h.enqueue _ _ _ _ _ _ _) _ _ ?_) _ _
        exact fun _ => rfl
      · refine Moves.modRead (h.enqueue _ _ _ _ _ _ _) _ _ ?_
        exact fun _ => rfl
    · exact h
  · exact h

theorem Moves.advanceRotate (h : Moves s t) (w : WinIx) (l : LegIx) : Moves s (Machine.advanceRotate w l t) :=
  Moves.ite (h.modWin _ _ (Window.keeps_of_members (fun hd => hd) rfl)) h

theorem Moves.retireRead (h : Moves s t) (r : Nat) : Moves s (Machine.retireRead r t) :=
  (Moves.step h (.dropReads t _)).raiseHead

theorem Moves.faultRead (h : Moves s t) (r : Nat) : Moves s (Machine.faultRead r t) := by
  unfold Machine.faultRead
  split
  · exact (h.pushAnswers _).retireRead _
  · exact h

theorem Moves.steerWindow (h : Moves s t) (e : ReadEntry) (w : WinIx) : Moves s (Machine.steerWindow e w t) := by
  unfold Machine.steerWindow
  refine Moves.ite (h.faultRead _) ?_
  split
  · exact (h.placeRead _ _).advanceRotate _ _
  · exact Moves.ite h (h.faultRead _)

theorem Moves.steerPass (h : Moves s t) (e : ReadEntry) (l : LegIx) : Moves s (Machine.steerPass e l t) :=
  Moves.ite (h.placeRead _ _) (Moves.ite h (h.faultRead _))

theorem Moves.steer (h : Moves s t) (r : Nat) : Moves s (Machine.steer r t) := by
  unfold Machine.steer
  split
  · refine Moves.ite h ?_
    split
    · exact h.steerWindow _ _
    · exact h.steerPass _ _
    · exact h.faultRead _
  · exact h

theorem Moves.reconsider (h : Moves s t) : Moves s (Machine.reconsider t) :=
  h.trans (Moves.foldl (fun u r => (Moves.refl u).steer r) _ t)

theorem Moves.failRead (h : Moves s t) (r : Nat) (l : LegIx) : Moves s (Machine.failRead r l t) := by
  refine Moves.steer (Moves.modRead h _ _ ?_) _
  exact fun _ => rfl

theorem Moves.deliverBeat (h : Moves s t) (r : Nat) (d : List Byte) : Moves s (Machine.deliverBeat r d t) := by
  unfold Machine.deliverBeat
  split
  · dsimp only
    have h1 : Moves s (Machine.modRead r (fun e => { e with delivered := e.delivered + 1 }) t) := by
      refine Moves.modRead h _ _ ?_
      exact fun _ => rfl
    exact Moves.ite ((h1.pushAnswer _).retireRead _) (h1.pushAnswer _)
  · exact h

theorem Moves.failReadsOn (h : Moves s t) (l : LegIx) : Moves s (Machine.failReadsOn l t) :=
  h.trans (Moves.foldl (fun u r => (Moves.refl u).failRead r l) _ t)

theorem Moves.dropRead (h : Moves s t) (r : Nat) (l : LegIx) : Moves s (Machine.dropRead r l t) := by
  refine Moves.raise (Moves.orphanWhere (Moves.modLeg h l _ ?_) _ _)
  have := LegMove.filter (t.leg l) (fun q => q.owner != .read r) (fun _ => true) (fun _ => true)
  simpa using this

theorem Moves.dropReadAddr (h : Moves s t) (w : WinIx) (l : LegIx) : Moves s (Machine.dropReadAddr w l t) :=
  .step h (.mapReads t _ (fun e => by split <;> rfl))

theorem Moves.takeBackReads (h : Moves s t) (w : WinIx) (l : LegIx) : Moves s (Machine.takeBackReads w l t) :=
  h.trans (Moves.foldl (fun u r => ((Moves.refl u).dropRead r l).failRead r l) _ t)

theorem Moves.addRead (h : Moves s t) (e : ReadEntry) (hl : t.reads.length < Config.readTrackerSize) (hr : e.ref = t.nextRef) :
    Moves s (Machine.addRead e t) := Moves.steer (Moves.step h (.addRead t e hl hr)) _

/-! ## Rebuild engine -/

theorem Moves.takeSourceOrEnd (h : Moves s t) (w : WinIx) : Moves s (Machine.takeSourceOrEnd w t) := h.takeSource.endIfLost w

theorem Moves.segmentStart (h : Moves s t) : Moves s (Machine.segmentStart t) := by
  unfold Machine.segmentStart
  split
  · refine Moves.takeSourceOrEnd (Moves.modJob h _ ?_) _
    exact fun j hj => ⟨hj.1, fun p hp => by cases hp; exact ⟨by decide, by decide⟩⟩
  · exact h

theorem runningJob_head {s : State} {j : Job} (h : runningJob s = some j) : ∃ js, s.jobs = j :: js ∧ j.running = true := by
  unfold runningJob at h
  split at h
  · rename_i k ks hk
    split at h
    · rename_i hr; cases h; exact ⟨ks, hk, hr⟩
    · cases h
  · cases h

theorem Moves.repeatSegment (h : Moves s t) (hp : ∀ j, runningJob t = some j → ∃ p, j.pass = some p ∧ p < Config.closedPass) :
    Moves s (Machine.repeatSegment t) := by
  unfold Machine.repeatSegment
  split
  · rename_i j hj
    obtain ⟨p, hp, hlt⟩ := hp j hj
    obtain ⟨js, hjs, hrun⟩ := runningJob_head hj
    refine Moves.takeSourceOrEnd ?_ _
    unfold Machine.modJob
    rw [hjs]
    simp only [hrun, if_true]
    refine .step h (.headJob t j _ js hjs (fun hb => ⟨hb.1, ?_⟩))
    intro q hq
    simp only [hp, Option.map_some, Option.some.injEq] at hq
    subst hq
    have := (hb.2 p hp).1
    omega
  · exact h

theorem Moves.retakeSource (h : Moves s t) : Moves s (Machine.retakeSource t) := by
  unfold Machine.retakeSource
  split
  · refine Moves.ite ?_ h
    split
    · exact Moves.ite h.takeSource h
    · exact h.endIfLost _
  · exact h

theorem Moves.completeJob (h : Moves s t) : Moves s (Machine.completeJob t) := by
  unfold Machine.completeJob
  split
  · split
    · rename_i hc
      dsimp only
      refine Moves.postHealth (Moves.post (Moves.post (Moves.step (h.makeCurrent _ _ ?_) (.popJob _)) _) _) _ _
      exact slot_active (by simpa using hc)
    · exact h
  · exact h

theorem Moves.afterSegment (h : Moves s t) (n : BitVec 8) : Moves s (Machine.afterSegment n t) := by
  unfold Machine.afterSegment
  split
  · exact Moves.ite (Moves.ite h.completeJob h.segmentStart) h
  · exact h

theorem Moves.segmentEnd (h : Moves s t) : Moves s (Machine.segmentEnd t) := by
  unfold Machine.segmentEnd
  split
  · rename_i j hj
    split
    · rename_i g p hg hp
      split
      · rename_i ho
        simp only [Bool.and_eq_true, decide_eq_true_eq] at ho
        refine h.repeatSegment (fun k hk => ?_)
        rw [hj] at hk
        cases hk
        exact ⟨p, hp, ho.2⟩
      · dsimp only
        have h1 : Moves s (Machine.modJob (fun j => { j with segment := none, pass := none, segmentsDone := j.segmentsDone + 1 }) t) := by
          refine Moves.modJob h _ ?_
          exact fun k hk => ⟨hk.1, fun q hq => by cases hq⟩
        refine Moves.afterSegment ?_ _
        exact Moves.ite (Moves.resumeRelease (Moves.markReleased (Moves.ite h1 (h1.removeStale _ _ _))))
          (Moves.ite h1 (h1.removeStale _ _ _))
    · exact h
  · exact h

theorem Moves.placeChunkReadsUpTo (h : Moves s t) (n : Nat) : Moves s (Machine.placeChunkReadsUpTo n t) := by
  induction n generalizing t with
  | zero => exact h
  | succ n ih =>
    unfold Machine.placeChunkReadsUpTo
    split
    · rename_i j hj
      split
      · rename_i l a hd
        refine ih ?_
        obtain ⟨js, hjs, hrun⟩ := runningJob_head hj
        have hq : (Machine.enqueue l .copy .read a Config.chunkBytes [] (.chunk j.number j.nextChunk) t).jobs = j :: js := by
          unfold Machine.enqueue; split <;> simp [hjs]
        have hc : j.chunks.length < Config.chunksInProcess := by
          unfold chunkReadDue at hd
          split at hd
          · split at hd
            · simp only at hd
              split at hd
              · rename_i hcond
                simp only [Bool.and_eq_true, decide_eq_true_eq] at hcond
                exact hcond.1.1.1
              · cases hd
            · cases hd
          · cases hd
        unfold Machine.modJob
        rw [hq]
        simp only [hrun, if_true]
        refine .step (h.enqueue _ _ _ _ _ _ _) (.headJob _ j _ js hq (fun hb => ⟨?_, hb.2⟩))
        simp only [List.length_append, List.length_cons, List.length_nil]
        omega
      · exact h
    · exact h

theorem Moves.placeChunkReads (h : Moves s t) : Moves s (Machine.placeChunkReads t) := h.placeChunkReadsUpTo _

theorem Moves.modChunk (h : Moves s t) (c : Nat) (f : Chunk → Chunk) : Moves s (Machine.modChunk c f t) := by
  refine Moves.modJob h _ ?_
  exact fun j hj => ⟨by simpa using hj.1, hj.2⟩

theorem Moves.placeChunkWrite (h : Moves s t) (c : Nat) : Moves s (Machine.placeChunkWrite c t) := by
  unfold Machine.placeChunkWrite
  split
  · split
    · exact h.enqueue _ _ _ _ _ _ _
    · exact h
  · exact h

theorem Moves.chunkBeat (h : Moves s t) (n : BitVec 8) (c : Nat) (d : List Byte) (b : Bool) : Moves s (Machine.chunkBeat n c d b t) := by
  unfold Machine.chunkBeat
  refine Moves.ite ?_ h
  dsimp only
  exact Moves.ite (((h.modChunk _ _).modChunk _ _).placeChunkWrite _) (h.modChunk _ _)

theorem Moves.ackChunk (h : Moves s t) (n : BitVec 8) (c : Nat) : Moves s (Machine.ackChunk n c t) := by
  unfold Machine.ackChunk
  refine Moves.ite ?_ h
  dsimp only
  have hb : ∀ j : Job, j.inBounds → Job.inBounds { j with
      chunks := j.chunks.filter fun k => k.index != c
      chunksWritten := j.chunksWritten + 1 } :=
    fun j hj => ⟨(List.length_filter_le _ _).trans hj.1, hj.2⟩
  exact Moves.ite (Moves.raiseWork (Moves.modJob h _ hb)).segmentEnd (Moves.raiseWork (Moves.modJob h _ hb))

theorem Moves.failChunkRead (h : Moves s t) (n : BitVec 8) (c : Nat) : Moves s (Machine.failChunkRead n c t) :=
  Moves.ite h.restartPass h

theorem Moves.failChunkWrite (h : Moves s t) (n : BitVec 8) (c : Nat) : Moves s (Machine.failChunkWrite n c t) := by
  unfold Machine.failChunkWrite
  refine Moves.ite ?_ h
  split
  · exact h.demote _ _ _ _
  · exact h

/-- A start whose checks pass finds the target STALE. -/
theorem startCheck_slot {j : Job} (hc : startCheck s j = none) : slotState s j.window j.target = some .stale := by
  unfold startCheck at hc
  split at hc
  · cases hc
  · split at hc
    · rename_i m hm
      split at hc
      · cases hc
      · rename_i hs
        simpa [slotState, hm] using hs
    · cases hc

theorem makeWhole_vacant {w : WinIx} {l : LegIx} (h : Vacant ((Machine.makeWhole w l s).win w)) : Vacant (s.win w) := by
  intro hd m hm
  have hx : (Machine.makeWhole w l s).win w =
      { s.win w with members := (s.win w).members.map fun m => if m.leg == l then { m with whole := true } else m } := by
    simp [Machine.makeWhole, Machine.modMember]
  rw [hx] at h
  have := h hd _ (List.mem_map_of_mem hm)
  split at this <;> exact this

theorem Moves.startJob (h : Moves s t) (j : Job) (js : List Job) (hj : t.jobs = j :: js) (hc : startCheck t j = none) :
    Moves s (Machine.startJob j t) := by
  unfold Machine.startJob
  extract_lets mode total s1 s2 s3
  have h1 : Moves s s1 := Moves.ite (h.makeWhole j.window j.target) h
  have ha : Vacant (s1.win j.window) → (s1.win j.window).state ≠ .disabled := by
    have hv := slot_active (startCheck_slot hc)
    dsimp only [s1]
    split
    · exact fun hw => by simpa [Machine.makeWhole, Machine.modMember] using hv (makeWhole_vacant hw)
    · exact hv
  have h2 : Moves s s2 := by
    refine Moves.raise (h1.modMember j.window j.target (fun m => { m with state := some .rebuilding }) ?_ (.inl ha) ?_)
    · exact fun _ => rfl
    · exact fun m hm => ⟨.inr rfl, hm.2⟩
  have hjobs : s2.jobs = j :: js := by
    show s1.jobs = _
    cases hm : mode <;> simp [s1, hm, hj, Machine.makeWhole]
  have h3 : Moves s s3 := by
    have : s3 = Machine.post (.jobStarted j.window j.target mode j.number) { s2 with jobs := j.started mode total :: js } := by
      simp only [s3, hjobs, List.tail_cons]
    rw [this]
    exact Moves.post (.step h2 (.headJob _ j (j.started mode total) js hjobs (fun hb => hb))) _
  exact Moves.ite h3.completeJob h3.segmentStart

theorem Moves.startHeads (h : Moves s t) (n : Nat) : Moves s (Machine.startHeads n t) := by
  induction n generalizing t with
  | zero => exact h
  | succ n ih =>
    unfold Machine.startHeads
    split
    · exact h
    · rename_i j js hj
      refine Moves.ite h ?_
      split
      · refine ih (Moves.post ?_ _)
        have := Move.popJob t
        rw [hj] at this
        exact .step h this
      · rename_i hc
        exact ih (h.startJob j js hj hc)

theorem Moves.startAttempt (h : Moves s t) : Moves s (Machine.startAttempt t) := h.startHeads _

end Sys2Proof.Machine
end

