-- ==== Sys2Proof/Laws/StepMoves.lean ====
section
/-! SUPPORT. The moves of the request link port, the reactions, the leg ports, the commands and the step itself. -/

set_option linter.unusedSimpArgs false

namespace Sys2Proof.Machine

open Sys2Proof.Safety

variable {s t : State}

/-! ## Request link port -/

theorem Moves.stall (h : Moves s t) (c : StallCause) (hr : inReset t = false) (hh : t.link.head.isSome = true) (hn : c ≠ .none)
    (hc : c ≠ .resetting) : Moves s (Machine.stall c t) := .step h (.stall t c hr hh hn hc)

theorem Moves.handOver (h : Moves s t) (r : Request) (hr : inReset t = false) (ht : tagInUse t r.tag = false) :
    Moves s (Machine.handOver r t) := .step (.step h (.settle t hr)) (.admitTag _ _ _ ht)

theorem Moves.faultHead (h : Moves s t) (r : Request) (hr : inReset t = false) (ht : tagInUse t r.tag = false) :
    Moves s (Machine.faultHead r t) := Moves.pushAnswers (h.handOver r hr ht) _

theorem Moves.rejectHead (h : Moves s t) (r : Request) (hr : inReset t = false) (ht : tagInUse t r.tag = false) :
    Moves s (Machine.rejectHead r t) := Moves.pushAnswer (.step (.step h (.settle t hr)) (.admitTag _ _ _ ht)) _

theorem writeStall_cause {w : WinIx} {g : Nat} {c : StallCause} (h : writeStall t w g = some c) : c ≠ .none ∧ c ≠ .resetting := by
  unfold writeStall queueStall at h
  repeat' split at h
  all_goals first | (cases h; exact ⟨by decide, by decide⟩) | cases h

theorem passWriteStall_cause {l : LegIx} {c : StallCause} (h : passWriteStall t l = some c) : c ≠ .none ∧ c ≠ .resetting := by
  unfold passWriteStall at h
  repeat' split at h
  all_goals first | (cases h; exact ⟨by decide, by decide⟩) | cases h

/-- The conditions under which a head is routed. -/
structure Presentable (t : State) (r : Request) : Prop where
  head : t.link.head = some r
  running : inReset t = false
  tag : tagInUse t r.tag = false

theorem Moves.acceptRead (h : Moves s t) (w : WinIx) (r : Request) (hl : t.reads.length < Config.readTrackerSize) :
    Moves s (Machine.acceptRead w r t) := h.addRead _ hl rfl

theorem Moves.acceptPassRead (h : Moves s t) (l : LegIx) (r : Request) (hl : t.reads.length < Config.readTrackerSize) :
    Moves s (Machine.acceptPassRead l r t) := h.addRead _ hl rfl

theorem Moves.routeEnabled (h : Moves s t) (w : WinIx) (r : Request) (hp : Presentable t r) :
    Moves s (Machine.routeEnabled w r t) := by
  have hh : t.link.head.isSome = true := by rw [hp.head]; rfl
  unfold Machine.routeEnabled
  refine Moves.ite (h.faultHead r hp.running hp.tag) ?_
  split
  · split
    · rename_i c hc
      exact h.stall c hp.running hh (writeStall_cause hc).1 (writeStall_cause hc).2
    · rename_i hc
      exact Moves.acceptWrite (h.handOver r hp.running hp.tag) w r hc
  · split
    · exact h.stall _ hp.running hh (by decide) (by decide)
    · rename_i hl
      refine Moves.acceptRead (h.handOver r hp.running hp.tag) w r ?_
      simp only [Machine.handOver, admitTag_reads, settle_reads]
      omega

theorem Moves.routePass (h : Moves s t) (l : LegIx) (r : Request) (hp : Presentable t r) : Moves s (Machine.routePass l r t) := by
  have hh : t.link.head.isSome = true := by rw [hp.head]; rfl
  unfold Machine.routePass
  split
  · split
    · rename_i c hc
      exact h.stall c hp.running hh (passWriteStall_cause hc).1 (passWriteStall_cause hc).2
    · rename_i hc
      refine Moves.acceptPassWrite (h.handOver r hp.running hp.tag) l r ?_
      simp only [Machine.handOver, admitTag_writes, settle_writes]
      unfold passWriteStall at hc
      split at hc
      · cases hc
      · omega
  · split
    · exact h.stall _ hp.running hh (by decide) (by decide)
    · rename_i hl
      refine Moves.acceptPassRead (h.handOver r hp.running hp.tag) l r ?_
      simp only [Machine.handOver, admitTag_reads, settle_reads]
      omega

theorem Moves.route (h : Moves s t) (r : Request) (hp : Presentable t r) : Moves s (Machine.route r t) := by
  unfold Machine.route
  split
  · exact Moves.ite (h.faultHead r hp.running hp.tag) (h.routeEnabled _ r hp)
  · split
    · exact Moves.ite (h.routePass _ r hp) (h.faultHead r hp.running hp.tag)
    · exact h.faultHead r hp.running hp.tag

theorem Moves.present (h : Moves s t) : Moves s (Machine.present t) := by
  unfold Machine.present
  split
  · rename_i r hr
    split
    · rename_i hres; exact .step h (.holdHead t hres)
    · rename_i hres
      have hres' : inReset t = false := by simpa using hres
      split
      · exact h.stall _ hres' (by rw [hr]; rfl) (by decide) (by decide)
      · rename_i ht
        have ht' : tagInUse t r.tag = false := by simpa using ht
        exact Moves.ite (h.rejectHead r hres' ht') (h.route r ⟨hr, hres', ht'⟩)
  · exact h

theorem Moves.takeNext (h : Moves s t) (hm : mayTake t = true) : Moves s (Machine.takeNext t) := by
  unfold Machine.takeNext
  split
  · exact h
  · simp only [mayTake, Bool.and_eq_true, Option.isNone_iff_eq_none] at hm
    exact Moves.present (.step h (.takeHead t _ _ hm.1))

theorem Moves.retryHead (h : Moves s t) : Moves s (Machine.retryHead t) := Moves.ite h.present h

theorem Moves.retryIfDue (h : Moves s t) : Moves s (Machine.retryIfDue t) := Moves.ite (Moves.retryHead (.step h (.notice t _))) h

theorem Moves.takeAnswer (h : Moves s t) : Moves s (Machine.takeAnswer t) := by
  unfold Machine.takeAnswer
  split
  · rename_i a rest ha
    have h1 := Moves.step h (.answerTaken t a rest ha)
    exact Moves.ite h1.raiseHead h1.raiseWork
  · exact h

/-! ## Reactions -/

theorem Moves.completeDrain (h : Moves s t) (w : WinIx) : Moves s (Machine.completeDrain w t) := by
  refine Moves.raise (Moves.post (.step h (.windowClose t w _ ?_)) _)
  refine fun _ => ⟨fun _ m hm => ?_, fun _ hc => by cases hc⟩
  obtain ⟨a, _, rfl⟩ := List.mem_map.mp hm
  rfl

theorem Moves.testDrain (h : Moves s t) (w : WinIx) : Moves s (Machine.testDrain w t) := Moves.ite (h.completeDrain w) h

theorem Moves.testDrains (h : Moves s t) : Moves s (Machine.testDrains t) :=
  h.trans (Moves.foldl (fun u w => (Moves.refl u).testDrain w) _ t)

theorem Moves.finishReset (h : Moves s t) : Moves s (Machine.finishReset t) := by
  unfold Machine.finishReset
  split
  · rename_i hc
    simp only [Bool.and_eq_true, beq_iff_eq] at hc
    exact Moves.raiseWork (Moves.present (.step (h.post .resetDone) (.reopen _ hc.1)))
  · exact h

theorem Moves.reactRound (h : Moves s t) : Moves s (Machine.reactRound t) :=
  Moves.finishReset (Moves.testDrains (Moves.startAttempt (Moves.placeChunkReads (Moves.retakeSource (Moves.reconsider
    (Moves.retryIfDue (Moves.resumeIfDue h)))))))

theorem Moves.reactUpTo (h : Moves s t) (n : Nat) : Moves s (Machine.reactUpTo n t) := by
  induction n generalizing t with
  | zero => exact h
  | succ n ih =>
    unfold Machine.reactUpTo
    exact Moves.ite (ih (Moves.reactRound (.step h (.notice t _)))) h

theorem Moves.intake (h : Moves s t) (n : Nat) : Moves s (Machine.intake n t) := by
  induction n generalizing t with
  | zero => exact h
  | succ n ih =>
    unfold Machine.intake
    split
    · rename_i hm; exact ih ((h.takeNext hm).reactUpTo 64)
    · exact h

theorem Moves.react (h : Moves s t) : Moves s (Machine.react t) := (h.reactUpTo 64).intake _

/-! ## Leg ports -/

/-- A change of a leg port's record that touches neither queues, table nor failure count. -/
theorem LegMove.plain (p q : LegPort) (hd : q.direct = p.direct) (hl : q.lag = p.lag) (hc : q.copy = p.copy)
    (hi : q.inflight = p.inflight) (hf : q.failures = p.failures) (hn : q.nextAge = p.nextAge) : LegMove p q :=
  .conf p q hd hl hc hi (.inr hf) hn

theorem Moves.setLegState (h : Moves s t) (l : LegIx) (n : LegState) (c : LegCause) : Moves s (Machine.setLegState l n c t) :=
  Moves.raise (Moves.post (Moves.modLeg h l _ (.plain _ _ rfl rfl rfl rfl rfl rfl)) _)

theorem Moves.enterIdentifying (h : Moves s t) (l : LegIx) (c : LegCause) : Moves s (Machine.enterIdentifying l c t) :=
  Moves.modLeg (h.setLegState _ _ _) l _ (.plain _ _ rfl rfl rfl rfl rfl rfl)

theorem Moves.stopIdentity (h : Moves s t) (l : LegIx) : Moves s (Machine.stopIdentity l t) :=
  Moves.modLeg h l _ (.plain _ _ rfl rfl rfl rfl rfl rfl)

theorem Moves.loseSource (h : Moves s t) (l : LegIx) : Moves s (Machine.loseSource l t) := Moves.ite h.restartPass h

theorem Moves.leaveUp (h : Moves s t) (l : LegIx) (n : LegState) (c : LegCause) : Moves s (Machine.leaveUp l n c t) :=
  Moves.raise (Moves.clearPassLeg (Moves.demoteLeg (Moves.loseSource (Moves.failReadsOn
    (Moves.modLeg (h.setLegState l n c) l _ (.clear _)) l) l) l) l)

theorem Moves.faultLeg (h : Moves s t) (l : LegIx) (c : LegCause) : Moves s (Machine.faultLeg l c t) :=
  Moves.ite (h.leaveUp _ _ _) h

theorem Moves.identified (h : Moves s t) (l : LegIx) (i : Identity) : Moves s (Machine.identified l i t) :=
  Moves.visitSlots (Moves.setLegState (Moves.modLeg h l _ (.conf _ _ rfl rfl rfl rfl (.inl (Nat.zero_le _)) rfl)) _ _ _) l

theorem Moves.takeIdentity (h : Moves s t) (l : LegIx) (a : IdentityAnswer) : Moves s (Machine.takeIdentity l a t) := by
  unfold Machine.takeIdentity
  refine Moves.ite ?_ (h.count _ _)
  split
  · exact h.identified _ _
  · exact (h.stopIdentity _).setLegState _ _ _

theorem Moves.sendOne (h : Moves s t) (l : LegIx) : Moves s (Machine.sendOne l t) := by
  unfold Machine.sendOne
  split
  · rename_i hm
    split
    · dsimp only
      split
      · exact (Moves.modLeg h l _ (.send _ _ _ _ hm)).raise
      · exact h
    · exact h
  · exact h

theorem Moves.ownerReadFailed (h : Moves s t) (l : LegIx) (o : Option Owner) : Moves s (Machine.ownerReadFailed l o t) := by
  unfold Machine.ownerReadFailed
  split
  · exact h.failRead _ _
  · exact h.failChunkRead _ _
  · exact h
  · exact h

theorem Moves.ownerWriteFailed (h : Moves s t) (l : LegIx) (o : Option Owner) : Moves s (Machine.ownerWriteFailed l o t) := by
  unfold Machine.ownerWriteFailed
  split
  · exact h.failWrite _ _
  · exact h
  · exact h
  · exact h

theorem Moves.useChoice (h : Moves s t) : Moves s (Machine.useChoice t) := .step h (.choices t _)

theorem Moves.writeFailed (h : Moves s t) (l : LegIx) (c : LegCause) (o : Option Owner) : Moves s (Machine.writeFailed l c o t) := by
  unfold Machine.writeFailed
  split
  · exact Moves.ite (Moves.ite ((h.useChoice.failChunkWrite _ _).faultLeg _ _) (h.useChoice.faultLeg _ _)) (h.faultLeg _ _)
  · exact (h.ownerWriteFailed _ _).faultLeg _ _
  · exact h.faultLeg _ _
  · exact h.faultLeg _ _

theorem Moves.checkFailures (h : Moves s t) (l : LegIx) : Moves s (Machine.checkFailures l t) := Moves.ite (h.faultLeg _ _) h

theorem Moves.bumpFailures (h : Moves s t) (l : LegIx) : Moves s (Machine.bumpFailures l t) :=
  Moves.modLeg h l _ (.conf _ _ rfl rfl rfl rfl (.inl (Nat.min_le_left _ _)) rfl)

theorem LegMove.flight (p : LegPort) (n : SeqNo) (f : Flight → Flight) (hf : ∀ x, (f x).number = x.number) :
    LegMove p (p.modFlight n f) := .flights p _ (fun x => by split <;> simp [hf])

theorem Moves.countOnce (h : Moves s t) (l : LegIx) (k : Counter) (f : Flight) : Moves s (Machine.countOnce l k f t) := by
  unfold Machine.countOnce
  refine Moves.ite h (Moves.count (Moves.modLeg h l _ (LegMove.flight _ _ _ ?_)) _ _)
  exact fun _ => rfl

theorem Moves.freeEntry (h : Moves s t) (l : LegIx) (n : SeqNo) : Moves s (Machine.freeEntry l n t) :=
  Moves.modLeg h l _ (.free _ n)

theorem Moves.ownerAcked (h : Moves s t) (l : LegIx) (o : Option Owner) : Moves s (Machine.ownerAcked l o t) := by
  unfold Machine.ownerAcked
  split
  · exact h.ackWrite _ _
  · exact h.ackChunk _ _
  · exact h
  · exact h

theorem Moves.writeEntryResponse (h : Moves s t) (l : LegIx) (f : Flight) (ok : Bool) :
    Moves s (Machine.writeEntryResponse l f ok t) := by
  unfold Machine.writeEntryResponse
  split
  · exact (h.freeEntry _ _).ownerAcked _ _
  · exact ((h.freeEntry _ _).count _ _).writeFailed _ _ _
  · exact (h.countOnce _ _ _).freeEntry _ _
  · exact ((h.freeEntry _ _).count _ _).faultLeg _ _
  · exact (h.countOnce _ _ _).freeEntry _ _
  · exact h.freeEntry _ _

theorem Moves.noteBeat (h : Moves s t) (l : LegIx) (f : Flight) : Moves s (Machine.noteBeat l f t) := by
  unfold Machine.noteBeat
  refine Moves.ite (h.freeEntry _ _) (Moves.modLeg h l _ (LegMove.flight _ _ _ ?_))
  exact fun _ => rfl

theorem Moves.noteErrorBeat (h : Moves s t) (l : LegIx) (f : Flight) : Moves s (Machine.noteErrorBeat l f t) := by
  unfold Machine.noteErrorBeat
  refine Moves.ite (h.freeEntry _ _) (Moves.modLeg h l _ (LegMove.flight _ _ _ ?_))
  exact fun _ => rfl

theorem Moves.ownerBeat (h : Moves s t) (o : Option Owner) (d : List Byte) (b : Bool) : Moves s (Machine.ownerBeat o d b t) := by
  unfold Machine.ownerBeat
  split
  · exact h.deliverBeat _ _
  · exact h.chunkBeat _ _ _ _
  · exact h
  · exact h

theorem Moves.readSucceeded (h : Moves s t) (l : LegIx) (f : Flight) : Moves s (Machine.readSucceeded l f t) :=
  Moves.ite (Moves.modLeg h l _ (.conf _ _ rfl rfl rfl rfl (.inl (Nat.zero_le _)) rfl)) h

theorem Moves.readEntryBeat (h : Moves s t) (l : LegIx) (f : Flight) (b : BeatAnswer) : Moves s (Machine.readEntryBeat l f b t) := by
  unfold Machine.readEntryBeat
  split
  · exact ((h.noteBeat _ _).readSucceeded _ _).ownerBeat _ _ _
  · exact ((((h.noteErrorBeat _ _).count _ _).bumpFailures _).ownerReadFailed _ _).checkFailures _
  · exact (h.countOnce _ _ _).noteBeat _ _
  · exact (((h.noteErrorBeat _ _).count _ _).bumpFailures _).checkFailures _
  · exact (h.countOnce _ _ _).noteBeat _ _
  · exact h.noteBeat _ _

theorem Moves.takeWriteResponse (h : Moves s t) (l : LegIx) (n : SeqNo) (ok : Bool) : Moves s (Machine.takeWriteResponse l n ok t) := by
  unfold Machine.takeWriteResponse
  refine Moves.ite ?_ h
  split
  · exact Moves.ite (h.writeEntryResponse _ _ _) (h.readEntryBeat _ _ _)
  · exact h.count _ _

theorem Moves.takeReadBeat (h : Moves s t) (l : LegIx) (n : SeqNo) (b : Bool) (a : BeatAnswer) :
    Moves s (Machine.takeReadBeat l n b a t) := by
  unfold Machine.takeReadBeat
  refine Moves.ite ?_ h
  split
  · exact Moves.ite (h.readEntryBeat _ _ _) (h.writeEntryResponse _ _ _)
  · exact Moves.ite (Moves.count (Moves.modLeg h l _ (.plain _ _ rfl rfl rfl rfl rfl rfl)) _ _) h

theorem Moves.expireEntry (h : Moves s t) (l : LegIx) (n : SeqNo) : Moves s (Machine.expireEntry l n t) := by
  refine Moves.modLeg h l _ (LegMove.flight _ _ _ ?_)
  exact fun _ => rfl

theorem Moves.timedOut (h : Moves s t) (l : LegIx) (f : Flight) : Moves s (Machine.timedOut l f t) := by
  unfold Machine.timedOut
  dsimp only
  split
  · exact ((h.count _ _).expireEntry _ _).writeFailed _ _ _
  · exact (((( h.count _ _).expireEntry _ _).bumpFailures _).ownerReadFailed _ _).checkFailures _

theorem Moves.expire (h : Moves s t) (l : LegIx) (n : SeqNo) : Moves s (Machine.expire l n t) := by
  unfold Machine.expire
  split
  · split
    · exact h.freeEntry _ _
    · exact h.freeEntry _ _
    · exact Moves.ite (h.timedOut _ _) (h.expireEntry _ _)
    · exact Moves.ite (h.timedOut _ _) (h.expireEntry _ _)
  · exact h

/-! ## Commands -/

theorem foldl_post_moves {α : Type} (f : α → EventRec) (as : List α) (h : Moves s t) :
    Moves s (as.foldl (fun u a => Machine.post (f a) u) t) := h.trans (Moves.foldl (fun u a => (Moves.refl u).post (f a)) as t)

theorem Moves.enableWindow (h : Moves s t) (w : WinIx) (seed : Seed) (hd : (t.win w).state = .disabled) :
    Moves s (Machine.enableWindow w seed t) := by
  refine h.modWin w _ fun hv => ⟨fun hc => (by cases hc), fun l _ hl => ?_⟩
  obtain ⟨m, hm, hs, _⟩ := hl
  have := hv hd m (List.mem_of_find?_eq_some hm)
  simp [this] at hs

theorem Moves.enabled (h : Moves s t) (w : WinIx) (seed : Seed) (hd : (t.win w).state = .disabled) :
    Moves s (Machine.enabled w seed t) := by
  unfold Machine.enabled
  dsimp only
  have h1 : Moves s (Machine.postMismatches w seed (Machine.enableWindow w seed t)) :=
    (h.enableWindow w seed hd).trans (Moves.foldl (fun u _ => (Moves.refl u).post _) _ _)
  have h2 : Moves s (Machine.postSeeds w (Machine.postMismatches w seed (Machine.enableWindow w seed t))) :=
    h1.trans (Moves.foldl (fun u _ => (Moves.refl u).post _) _ _)
  exact Moves.raise (Moves.ite ((h2.postHealth _ _).queueAutoJobs _) (h2.postHealth _ _))

theorem Moves.postEnded (h : Moves s t) (c : JobCause) (js : List Job) : Moves s (Machine.postEnded c js t) :=
  foldl_post_moves _ js h

theorem Moves.startDrain (h : Moves s t) (w : WinIx) : Moves s (Machine.startDrain w t) := by
  have h1 := Moves.raise (h.modWin w (fun x => { x with state := .draining })
    (Window.keeps_of_members (fun hc => by cases hc) rfl))
  have h2 : Moves s (Machine.abortForDrain w (Machine.modWin w (fun x => { x with state := .draining }) t).raise) := by
    unfold Machine.abortForDrain
    split
    · exact Moves.ite (h1.demote _ _ _ _) h1
    · exact h1
  exact Moves.postEnded (.step h2 (.dropJobs _ _)) _ _

theorem Moves.reseed (h : Moves s t) (w : WinIx) (l : LegIx) (ha : (t.win w).state ≠ .disabled) : Moves s (Machine.reseed w l t) := by
  unfold Machine.reseed
  dsimp only
  have h1 := h.makeCurrent w l fun _ => ha
  have h2 : Moves s (((Machine.makeCurrent w l t).win w |>.members.filter fun m => m.leg != l).foldl
      (fun s m => Machine.makeWhole w m.leg s) (Machine.makeCurrent w l t)) :=
    h1.trans (Moves.foldl (fun u _ => (Moves.refl u).makeWhole _ _) _ _)
  exact Moves.ite (((h2.post _).postHealth _ _).queueAutoJobs _) ((h2.post _).postHealth _ _)

theorem Moves.addMember (h : Moves s t) (w : WinIx) (l : LegIx) (b : Nat) (ha : (t.win w).state ≠ .disabled) :
    Moves s (Machine.addMember w l b t) := by
  refine Moves.raise ?_
  have h1 := Moves.post (h.modWin w (fun x => { x with members := x.members ++ [addedMember l b] })
    fun _ => ⟨fun hd => absurd hd ha, fun k _ ⟨m, hm, hs⟩ => ⟨m, by simp [List.find?_append, hm], hs⟩⟩)
    (.memberChange w l .added (some .stale))
  unfold afterAdd
  exact Moves.ite (Moves.ite (Moves.ite (h1.queueAuto _ _) h1) (h1.post _)) h1

/-- A fold keeps the store if each of its steps does. -/
theorem foldl_store {α : Type} {f : State → α → State} (h : ∀ u a, (f u a).store = u.store) (as : List α) (u : State) :
    (as.foldl f u).store = u.store := by
  induction as generalizing u with
  | nil => rfl
  | cons a as ih => exact (ih _).trans (h u a)

theorem abortJob_store (u : State) : (Machine.abortJob u).store = u.store := by
  have ho : ∀ (v : State) (l : LegIx), (Machine.abandonOn v l).store = v.store := fun v l => by
    unfold Machine.abandonOn; dsimp only; split <;> rfl
  have hm : ∀ (f : Job → Job) (v : State), (Machine.modJob f v).store = v.store := fun f v => by
    unfold Machine.modJob; repeat' split
    all_goals rfl
  have ha : (Machine.abandonChunks u).store = u.store := by
    unfold Machine.abandonChunks
    rw [raiseWork_store, hm, foldl_store ho]
  unfold Machine.abortJob
  split
  · rw [← ha]
    generalize Machine.abandonChunks u = v
    rfl
  · rfl

theorem removeSlotJob_store (u : State) (w : WinIx) (l : LegIx) : (Machine.removeSlotJob w l u).store = u.store := by
  unfold Machine.removeSlotJob
  split
  · rw [post_store]
    split
    · exact abortJob_store u
    · rfl
  · rfl

/-- A member leaves the list once its entries are freed. -/
theorem Moves.closeList (h : Moves s t) (w : WinIx) (l : LegIx)
    (hf : ∀ e ∈ t.store, (!(e.window == w && e.leg == l)) = true) : Moves s (Machine.closeList w l t) := by
  have hk : (t.win w).Keeps { t.win w with members := (t.win w).members.filter fun m => m.leg != l, rotate := 0 } (· != l) := by
    refine fun hv => ⟨fun hd m hm => hv hd m (List.mem_of_mem_filter hm), fun k hk ⟨m, hm, hs⟩ => ⟨m, ?_, hs⟩⟩
    show List.find? _ (List.filter _ _) = _
    rw [List.find?_filter, ← hm]
    congr 1
    funext a
    by_cases ha : a.leg = k
    · simpa [ha] using hk
    · simp [ha]
  have hs := Move.windowFree t w _ l hk
  have he : Machine.closeList w l t =
      Machine.freeSlot w l (t.setWin w { t.win w with members := (t.win w).members.filter fun m => m.leg != l, rotate := 0 }) := by
    have : t.store.filter (fun e => !(e.window == w && e.leg == l)) = t.store := List.filter_eq_self.mpr hf
    simp only [Machine.freeSlot, setWin_store, this]
    rfl
  rw [he]
  exact .step h hs

theorem Moves.removeMember (h : Moves s t) (w : WinIx) (l : LegIx) : Moves s (Machine.removeMember w l t) := by
  have h1 : Moves s (Machine.clearRemoved w l t) :=
    Moves.decideAll (.step h (.mapWrites t _ (fun e => by split <;> rfl))) _
  have h2 := (h1.discardWrites w l).freeSlot w l
  have h3 : Moves s (Machine.removeSlotJob w l (Machine.freeSlot w l (Machine.discardWrites w l (Machine.clearRemoved w l t)))) := by
    unfold removeSlotJob
    split
    · exact Moves.post (Moves.ite h2.abortJob (h2.dropSlotJob _ _)) _
    · exact h2
  have h4 := h3.closeList w l fun e he => by
    rw [removeSlotJob_store] at he
    exact (List.mem_filter.mp he).2
  unfold Machine.removeMember
  extract_lets s1 s2 s3 s4
  have h5 : Moves s s2 := Moves.ite (Moves.resumeRelease h4) h4
  have h6 : Moves s s3 := Moves.postChange (h5.post _) _ _ _
  have h7 : Moves s s4 := Moves.ite h6.restartPass h6
  exact Moves.raise ((h7.dropReadAddr w l).takeBackReads w l)

theorem Moves.disableLeg (h : Moves s t) (l : LegIx) : Moves s (Machine.disableLeg l t) := by
  unfold Machine.disableLeg
  split
  · exact h
  · exact h.setLegState _ _ _
  · exact h.setLegState _ _ _
  · exact (h.stopIdentity _).setLegState _ _ _
  · exact h.leaveUp _ _ _

theorem Moves.cancelJob (h : Moves s t) (j : Job) : Moves s (Machine.cancelJob j t) :=
  Moves.ite (h.demote _ _ _ _) (Moves.post (h.dropSlotJob _ _) _)

theorem Moves.visitEntry {v : Visits} (h : Moves s v.state) (r : Nat) : Moves s (Machine.visitEntry v r).state := by
  unfold Machine.visitEntry
  split
  · split
    · split
      · rename_i e _ _ _ w g _ _ _ lead _
        dsimp only
        have h1 : Moves s (Machine.demoteForReset w lead.leg e v.state) :=
          h.trans (Moves.foldl (fun u _ => Moves.ite ((Moves.refl u).demoteHolding _ _ _ _) (Moves.refl u)) _ _)
        have h2 : Moves s (Machine.recordForReset v.state w g e (Machine.demoteForReset w lead.leg e v.state)) :=
          h1.trans (Moves.foldl (fun u _ => Moves.ite ((Moves.refl u).addStale _ _ _) (Moves.refl u)) _ _)
        split
        · exact (h2.clearOwed _ _).decideEmptied _
        · exact h1
      · exact h
    · exact h
  · exact h

theorem foldl_visitEntry_moves (rs : List Nat) {v : Visits} (h : Moves s v.state) :
    Moves s (rs.foldl Machine.visitEntry v).state := by
  induction rs generalizing v with
  | nil => exact h
  | cons r rs ih => exact ih (h.visitEntry r)

theorem Moves.resetSlots (h : Moves s t) : Moves s (Machine.resetSlots t) := by
  unfold Machine.resetSlots Machine.demoteTarget
  have h1 : Moves s ((t.writes.map (·.ref)).foldl Machine.visitEntry { state := t, owedToLead := [] }).state :=
    foldl_visitEntry_moves _ h
  split
  · exact (h1.demoteHolding _ _ _ _).trans (Moves.foldl (fun u _ => (Moves.refl u).addStale _ _ _) _ _)
  · exact h1

theorem foldl_port {α : Type} {f : State → α → State} (h : ∀ u a, (f u a).port = u.port) (as : List α) (u : State) :
    (as.foldl f u).port = u.port := by
  induction as generalizing u with
  | nil => rfl
  | cons a as ih => exact (ih _).trans (h u a)

theorem demoteForReset_port (w : WinIx) (l : LegIx) (e : WriteEntry) (u : State) : (demoteForReset w l e u).port = u.port := by
  unfold demoteForReset
  refine foldl_port (f := fun (s : State) (m : Member) => if m.leg != l && isCurrent s w m.leg && (e.owed.contains m.leg || e.owed.contains l)
    then demoteHolding w m.leg .datapathReset .datapathReset s else s) ?_ _ u
  intro v m
  split
  · exact demoteHolding_port _ _ _ _ _
  · rfl

theorem recordForReset_port (b : State) (w : WinIx) (g : Nat) (e : WriteEntry) (u : State) : (recordForReset b w g e u).port = u.port := by
  unfold recordForReset
  refine foldl_port (f := fun (s : State) (m : Member) => if slotState s w m.leg == some .stale && holdsOther b w e m.leg then addStale w m.leg g s
    else s) ?_ _ u
  intro v m
  split
  · exact addStale_port _ _ _ _
  · rfl

theorem visitEntry_port (v : Visits) (r : Nat) : (visitEntry v r).state.port = v.state.port := by
  unfold visitEntry
  split
  · split
    · split
      · dsimp only
        split
        · simp only [decideEmptied_port, clearOwed_port, recordForReset_port, demoteForReset_port]
        · exact demoteForReset_port _ _ _ _
      · rfl
    · rfl
  · rfl

theorem foldl_visitEntry_port (rs : List Nat) (v : Visits) : (rs.foldl visitEntry v).state.port = v.state.port := by
  induction rs generalizing v with
  | nil => rfl
  | cons r rs ih => exact (ih _).trans (visitEntry_port v r)

@[simp] theorem resetSlots_port (u : State) : (resetSlots u).port = u.port := by
  unfold resetSlots demoteTarget
  split
  · rw [foldl_port]
    · simp only [demoteHolding_port, foldl_visitEntry_port]
    · intro u g; simp
  · rw [foldl_visitEntry_port]

@[simp] theorem postEnded_port (u : State) (c : JobCause) (js : List Job) : (postEnded c js u).port = u.port := by
  unfold postEnded
  refine foldl_port (f := fun s j => post (.jobEnded j.window j.target c j.number) s) ?_ js u
  exact fun _ _ => rfl

theorem Moves.datapathReset (h : Moves s t) (hr : inReset t = false) : Moves s (Machine.datapathReset t) := by
  have h1 := Moves.step h (.resetStart t hr)
  have h2 := h1.resetSlots
  have h3 : Moves s (Machine.resetJobs (Machine.resetSlots (Machine.resetStart t))) := by
    refine Moves.postEnded ?_ _ _
    have := Moves.step h2 (.dropJobs _ (fun _ => false))
    simpa using this
  have h4 : Moves s (Machine.resetAnswers (Machine.resetJobs (Machine.resetSlots (Machine.resetStart t)))) :=
    .step (h3.pushAnswers _) (.choices _ _)
  refine .step h4 (.resetEmpty _ ?_)
  have hp : (Machine.resetAnswers (Machine.resetJobs (Machine.resetSlots (Machine.resetStart t)))).port =
      (Machine.resetStart t).port := by
    simp only [resetAnswers, pushAnswers_port, resetJobs, postEnded_port, resetSlots_port]
  rw [inReset, hp]
  rfl

/-! ## Management port -/

/-- Carrying out a command is a sequence of moves. -/
def Carried.moves (s : State) (c : Carried) : Prop := Moves s c.state

theorem refuse_state (st : Status) (u : State) : (Machine.refuse st u).state = u := rfl
theorem report_state (rs : List Byte) (u : State) : (Machine.report rs u).state = u := rfl
theorem finish_state (st : Status) (u : State) : (Machine.finish st u).state = Machine.react u := rfl

theorem configured_keeps {a : WindowArgs} {x y : Window} (hx : configured a = some x) (hd : y.state = .disabled) :
    y.Keeps x fun _ => true := by
  refine fun hv => ⟨fun _ m hm => ?_, fun l _ ⟨m, hm, hs, _⟩ => ?_⟩
  · unfold configured at hx
    split at hx
    · split at hx
      · split at hx
        · cases hx
          obtain ⟨p, _, rfl⟩ := List.mem_map.mp hm
          rfl
        · cases hx
      · cases hx
    · cases hx
  · have := hv hd m (List.mem_of_find?_eq_some hm)
    simp [this] at hs

theorem cmdWindowSet_moves (h : Moves s t) (args : List Byte) : (cmdWindowSet args t).moves s := by
  unfold cmdWindowSet
  repeat' split
  all_goals simp only [Carried.moves, refuse_state, report_state, finish_state]
  all_goals first | with_reducible exact h | skip
  rename_i hd _ x hx
  exact Moves.react (Moves.raiseHead (.step h (.window t _ _ (configured_keeps hx (by simpa using hd)))))

theorem cmdWindowGet_moves (h : Moves s t) (args : List Byte) : (cmdWindowGet args t).moves s := by
  unfold cmdWindowGet
  repeat' split
  all_goals simp only [Carried.moves, refuse_state, report_state, finish_state]
  all_goals exact h

theorem cmdWindowEnable_moves (h : Moves s t) (args : List Byte) : (cmdWindowEnable args t).moves s := by
  unfold cmdWindowEnable
  dsimp only
  repeat' split
  all_goals simp only [Carried.moves, refuse_state, report_state, finish_state]
  all_goals first | with_reducible exact h | exact (h.enabled _ _ (by simp_all)).react

theorem cmdWindowDisable_moves (h : Moves s t) (args : List Byte) : (cmdWindowDisable args t).moves s := by
  unfold cmdWindowDisable
  dsimp only
  repeat' split
  all_goals simp only [Carried.moves, refuse_state, report_state, finish_state]
  all_goals first | with_reducible exact h | with_reducible exact (h.startDrain _).react | with_reducible exact ((h.startDrain _).completeDrain _).react

theorem cmdWindowReseed_moves (h : Moves s t) (args : List Byte) : (cmdWindowReseed args t).moves s := by
  unfold cmdWindowReseed
  repeat' split
  all_goals simp only [Carried.moves, refuse_state, report_state, finish_state]
  all_goals first | with_reducible exact h | exact (h.reseed _ _ (by simp_all)).react

theorem cmdPassSet_moves (h : Moves s t) (args : List Byte) : (cmdPassSet args t).moves s := by
  unfold cmdPassSet
  repeat' split
  all_goals simp only [Carried.moves, refuse_state, report_state, finish_state]
  all_goals first | with_reducible exact h | exact (Moves.step h (.passLeg t _)).raiseHead.react

theorem cmdMemberAdd_moves (h : Moves s t) (args : List Byte) : (cmdMemberAdd args t).moves s := by
  unfold cmdMemberAdd
  repeat' split
  all_goals simp only [Carried.moves, refuse_state, report_state, finish_state]
  all_goals first | with_reducible exact h | exact (h.addMember _ _ _ (by simp_all)).react

theorem cmdMemberRemove_moves (h : Moves s t) (args : List Byte) : (cmdMemberRemove args t).moves s := by
  unfold cmdMemberRemove
  repeat' split
  all_goals simp only [Carried.moves, refuse_state, report_state, finish_state]
  all_goals first | with_reducible exact h | exact (h.removeMember _ _).react

theorem cmdMemberGet_moves (h : Moves s t) (args : List Byte) : (cmdMemberGet args t).moves s := by
  unfold cmdMemberGet
  repeat' split
  all_goals simp only [Carried.moves, refuse_state, report_state, finish_state]
  all_goals exact h

theorem Moves.enableLeg (h : Moves s t) (l : LegIx) : Moves s (Machine.enableLeg l t) :=
  Moves.ite (h.enterIdentifying _ _) (h.setLegState _ _ _)

theorem cmdLegEnable_moves (h : Moves s t) (args : List Byte) : (cmdLegEnable args t).moves s := by
  unfold cmdLegEnable
  repeat' split
  all_goals simp only [Carried.moves, refuse_state, report_state, finish_state]
  all_goals first | with_reducible exact h | exact (h.enableLeg _).react

theorem cmdLegDisable_moves (h : Moves s t) (args : List Byte) : (cmdLegDisable args t).moves s := by
  unfold cmdLegDisable
  repeat' split
  all_goals simp only [Carried.moves, refuse_state, report_state, finish_state]
  all_goals first | with_reducible exact h | exact (h.disableLeg _).react

theorem cmdLegGet_moves (h : Moves s t) (args : List Byte) : (cmdLegGet args t).moves s := by
  unfold cmdLegGet
  repeat' split
  all_goals simp only [Carried.moves, refuse_state, report_state, finish_state]
  all_goals exact h

theorem cmdLegSetTimeout_moves (h : Moves s t) (args : List Byte) : (cmdLegSetTimeout args t).moves s := by
  unfold cmdLegSetTimeout
  repeat' split
  all_goals simp only [Carried.moves, refuse_state, report_state, finish_state]
  all_goals first | with_reducible exact h | skip
  refine Moves.modLeg h _ _ ?_
  exact .plain _ _ rfl rfl rfl rfl rfl rfl

theorem cmdResyncQueue_moves (h : Moves s t) (args : List Byte) : (cmdResyncQueue args t).moves s := by
  unfold cmdResyncQueue
  repeat' split
  all_goals simp only [Carried.moves, refuse_state, report_state, finish_state]
  all_goals first | with_reducible exact h | skip
  exact (h.placeJob _ _ _ (by omega)).react

theorem cmdResyncCancel_moves (h : Moves s t) (args : List Byte) : (cmdResyncCancel args t).moves s := by
  unfold cmdResyncCancel
  repeat' split
  all_goals simp only [Carried.moves, refuse_state, report_state, finish_state]
  all_goals first | with_reducible exact h | exact (h.cancelJob _).react

theorem cmdResyncGet_moves (h : Moves s t) (args : List Byte) : (cmdResyncGet args t).moves s := by
  unfold cmdResyncGet
  split <;> exact h

theorem cmdStaleCount_moves (h : Moves s t) (args : List Byte) : (cmdStaleCount args t).moves s := by
  unfold cmdStaleCount
  repeat' split
  all_goals simp only [Carried.moves, refuse_state, report_state, finish_state]
  all_goals exact h

theorem cmdStaleList_moves (h : Moves s t) (args : List Byte) : (cmdStaleList args t).moves s := by
  unfold cmdStaleList
  repeat' split
  all_goals simp only [Carried.moves, refuse_state, report_state, finish_state]
  all_goals exact h

theorem cmdEventPop_moves (h : Moves s t) (args : List Byte) : (cmdEventPop args t).moves s := by
  unfold cmdEventPop
  repeat' split
  all_goals simp only [Carried.moves, refuse_state, report_state, finish_state]
  all_goals first | with_reducible exact h | exact .step h (.pop t)

theorem maskArg_legal {lo hi : Byte} {m : BitVec 16} (h : maskArg lo hi = some m) : m &&& 0xF001 = 0 := by
  unfold maskArg at h
  dsimp only at h
  split at h
  · rename_i hc; cases h; simpa using hc
  · cases h

theorem cmdEventConfig_moves (h : Moves s t) (args : List Byte) : (cmdEventConfig args t).moves s := by
  unfold cmdEventConfig
  repeat' split
  all_goals simp only [Carried.moves, refuse_state, report_state, finish_state]
  all_goals first | with_reducible exact h | skip
  rename_i hm
  exact .step h (.config t _ _ (maskArg_legal hm))

theorem cmdHealthRead_moves (h : Moves s t) (args : List Byte) : (cmdHealthRead args t).moves s := by
  unfold cmdHealthRead
  repeat' split
  all_goals simp only [Carried.moves, refuse_state, report_state, finish_state]
  all_goals first | with_reducible exact h | exact .step h (.clearCounters t _)

theorem cmdIdent_moves (h : Moves s t) (args : List Byte) : (cmdIdent args t).moves s := by
  unfold cmdIdent
  split <;> exact h

theorem cmdStatusGet_moves (h : Moves s t) (args : List Byte) : (cmdStatusGet args t).moves s := by
  unfold cmdStatusGet
  split <;> exact h

theorem cmdDatapathReset_moves (h : Moves s t) (args : List Byte) : (cmdDatapathReset args t).moves s := by
  unfold cmdDatapathReset
  split
  · exact h
  · rename_i hr
    split
    · simp only [Carried.moves, finish_state]
      exact (h.datapathReset (by simpa using hr)).react
    · exact h

/-- A choice between two ways to carry a command out. -/
theorem Carried.moves_ite {c : Prop} [Decidable c] {a b : Carried} (ha : a.moves s) (hb : b.moves s) :
    (if c then a else b).moves s := by
  split
  · exact ha
  · exact hb

theorem carryOut_moves (h : Moves s t) (code : Byte) (args : List Byte) : (carryOut code args t).moves s := by
  unfold carryOut
  refine Carried.moves_ite (cmdIdent_moves h args) ?_
  refine Carried.moves_ite (cmdStatusGet_moves h args) ?_
  refine Carried.moves_ite (cmdDatapathReset_moves h args) ?_
  refine Carried.moves_ite (cmdWindowSet_moves h args) ?_
  refine Carried.moves_ite (cmdWindowGet_moves h args) ?_
  refine Carried.moves_ite (cmdWindowEnable_moves h args) ?_
  refine Carried.moves_ite (cmdWindowDisable_moves h args) ?_
  refine Carried.moves_ite (cmdWindowReseed_moves h args) ?_
  refine Carried.moves_ite (cmdPassSet_moves h args) ?_
  refine Carried.moves_ite (cmdMemberAdd_moves h args) ?_
  refine Carried.moves_ite (cmdMemberRemove_moves h args) ?_
  refine Carried.moves_ite (cmdMemberGet_moves h args) ?_
  refine Carried.moves_ite (cmdLegEnable_moves h args) ?_
  refine Carried.moves_ite (cmdLegDisable_moves h args) ?_
  refine Carried.moves_ite (cmdLegGet_moves h args) ?_
  refine Carried.moves_ite (cmdLegSetTimeout_moves h args) ?_
  refine Carried.moves_ite (cmdResyncQueue_moves h args) ?_
  refine Carried.moves_ite (cmdResyncCancel_moves h args) ?_
  refine Carried.moves_ite (cmdResyncGet_moves h args) ?_
  refine Carried.moves_ite (cmdStaleCount_moves h args) ?_
  refine Carried.moves_ite (cmdStaleList_moves h args) ?_
  refine Carried.moves_ite (cmdEventPop_moves h args) ?_
  refine Carried.moves_ite (cmdEventConfig_moves h args) ?_
  refine Carried.moves_ite (cmdHealthRead_moves h args) ?_
  exact h

theorem Moves.modPort (h : Moves s t) (f : Port → Port) (hf : (f t.port).progress = t.port.progress) :
    Moves s (Machine.modPort f t) := .step h (.port t _ hf)

theorem Moves.respond {c : Carried} (h : c.moves s) (seq : Byte) : Moves s (Machine.respond seq c) :=
  Moves.modPort (t := c.state) h _ rfl

theorem Moves.completeFrame (h : Moves s t) (code seq : Byte) (args : List Byte) (check : Byte) :
    Moves s (Machine.completeFrame code seq args check t) := by
  unfold Machine.completeFrame
  refine Moves.ite h (Moves.ite ?_ ?_)
  · exact Moves.respond (c := frameFailure t) h seq
  · exact Moves.respond (carryOut_moves h code args) seq

theorem Moves.storeByte (h : Moves s t) (x : Byte) : Moves s (Machine.storeByte x t) := by
  unfold Machine.storeByte
  dsimp only
  refine Moves.ite (Moves.modPort h _ rfl) (Moves.ite ?_ (Moves.modPort h _ rfl))
  exact Moves.completeFrame (Moves.modPort h _ rfl) _ _ _ _

theorem Moves.takeByte (h : Moves s t) (x : Byte) : Moves s (Machine.takeByte t x) := by
  have h1 : Moves s (Machine.modPort (fun p => { p with byteTimes := p.byteTimes + 1 }) t) := Moves.modPort h _ rfl
  unfold Machine.takeByte
  dsimp only
  split
  · exact Moves.ite (Moves.modPort h1 _ rfl) (h1.storeByte x)
  · exact h1.storeByte x
  · exact h1
  · exact h1
  · exact h1

theorem Moves.receive (h : Moves s t) (bs : List Byte) : Moves s (Machine.receive bs t) := by
  unfold Machine.receive
  exact Moves.ite (h.trans (Moves.foldl (fun u x => (Moves.refl u).takeByte x) bs t)) h

theorem Moves.chipFall (h : Moves s t) (e : Bool) : Moves s (Machine.chipFall e t) := by
  unfold Machine.chipFall
  refine Moves.ite h (Moves.modPort h _ ?_)
  unfold Port.select
  split <;> rfl

theorem Moves.chipRise (h : Moves s t) (bs : List Byte) : Moves s (Machine.chipRise bs t) := by
  unfold Machine.chipRise
  refine Moves.ite (Moves.modPort ?_ _ rfl) h
  unfold failOpenFrame
  refine Moves.ite (h.receive bs) (Moves.ite ?_ (h.receive bs))
  exact Moves.respond (c := frameFailure (Machine.receive bs t)) (h.receive bs) _

/-! ## The step -/

theorem Moves.readyRises (h : Moves s t) (l : LegIx) : Moves s (Machine.readyRises l t) := by
  unfold Machine.readyRises
  dsimp only
  have h1 : Moves s (Machine.modLeg l (fun p => { p with ready := true }) t) :=
    Moves.modLeg h l _ (.plain _ _ rfl rfl rfl rfl rfl rfl)
  exact Moves.ite (h1.enterIdentifying _ _) h1

theorem Moves.readyFalls (h : Moves s t) (l : LegIx) : Moves s (Machine.readyFalls l t) := by
  unfold Machine.readyFalls
  dsimp only
  have h1 : Moves s (Machine.modLeg l (fun p => { p with ready := false }) t) :=
    Moves.modLeg h l _ (.plain _ _ rfl rfl rfl rfl rfl rfl)
  split
  · exact h1
  · exact h1
  · exact (h1.stopIdentity _).setLegState _ _ _
  · exact h1.leaveUp _ _ _
  · exact h1.setLegState _ _ _

theorem Moves.identityExpires (h : Moves s t) (l : LegIx) : Moves s (Machine.identityExpires l t) :=
  Moves.ite (((h.stopIdentity _).setLegState _ _ _).count _ _) h

/-- The outcome of a meaning that always runs. -/
theorem next_moves {u : State} (h : Moves s u) (e : (Host.Outcome.next u : Ran) = .next t) : Moves s t := by
  cases e; exact h

/-- Every meaning that answers a next state reaches it by moves. -/
theorem exec_moves {c : Instr} {s t : State} (h : exec c s = .next t) : Moves s t := by
  have r : Moves s s := .refl s
  cases c with
  | ident _ _ => exact next_moves (r.receive _) h
  | statusGet _ _ => exact next_moves (r.receive _) h
  | datapathReset _ _ => exact next_moves (r.receive _) h
  | windowSet _ _ => exact next_moves (r.receive _) h
  | windowGet _ _ => exact next_moves (r.receive _) h
  | windowEnable _ _ => exact next_moves (r.receive _) h
  | windowDisable _ _ => exact next_moves (r.receive _) h
  | windowReseed _ _ => exact next_moves (r.receive _) h
  | passSet _ _ => exact next_moves (r.receive _) h
  | memberAdd _ _ => exact next_moves (r.receive _) h
  | memberRemove _ _ => exact next_moves (r.receive _) h
  | memberGet _ _ => exact next_moves (r.receive _) h
  | legEnable _ _ => exact next_moves (r.receive _) h
  | legDisable _ _ => exact next_moves (r.receive _) h
  | legGet _ _ => exact next_moves (r.receive _) h
  | legSetTimeout _ _ => exact next_moves (r.receive _) h
  | resyncQueue _ _ => exact next_moves (r.receive _) h
  | resyncCancel _ _ => exact next_moves (r.receive _) h
  | resyncGet _ _ => exact next_moves (r.receive _) h
  | staleCount _ _ => exact next_moves (r.receive _) h
  | staleList _ _ => exact next_moves (r.receive _) h
  | eventPop _ _ => exact next_moves (r.receive _) h
  | eventConfig _ _ => exact next_moves (r.receive _) h
  | healthRead _ _ => exact next_moves (r.receive _) h
  | unknownCommand _ _ _ => exact next_moves (r.receive _) h
  | frameBadCheck _ _ _ _ => exact next_moves (r.receive _) h
  | chipSelectFall _ => exact next_moves (r.chipFall _) h
  | chipSelectRise _ => exact next_moves (r.chipRise _) h
  | resetAssert => exact next_moves (.one (.cold s true)) h
  | resetRelease => exact next_moves (Moves.ite (Moves.react (.one (.cold s false))) r) h
  | resetGuardEnd => exact next_moves (Moves.ite r (Moves.modPort r _ rfl)) h
  | request _ => exact next_moves (Moves.react (.one (.arrive s _))) h
  | headRetry => exact next_moves r.retryHead.react h
  | releaseResume => exact next_moves r.resumeRelease.react h
  | readReconsider => exact next_moves r.reconsider.react h
  | answerItemTaken => exact next_moves r.takeAnswer.react h
  | readyRise _ => exact next_moves (r.readyRises _).react h
  | readyFall _ => exact next_moves (r.readyFalls _).react h
  | identityAnswer _ _ => exact next_moves (Moves.ite r (r.takeIdentity _ _).react) h
  | identityTimeout _ => exact next_moves (r.identityExpires _).react h
  | legSend _ => exact next_moves (r.sendOne _).react h
  | writeResponse _ _ _ => exact next_moves (r.takeWriteResponse _ _ _).react h
  | readBeat _ _ _ _ => exact next_moves (r.takeReadBeat _ _ _ _).react h
  | entryTimerExpiry _ _ => exact next_moves (r.expire _ _).react h
  | jobStartAttempt => exact next_moves r.startAttempt.react h
  | sourceRetake => exact next_moves r.retakeSource.react h
  | chunkReadPlace => exact next_moves r.placeChunkReads.react h
  | drainComplete _ => exact next_moves (r.testDrain _).react h
  | resetDone => exact next_moves r.finishReset.react h

/-- A step reaches its next state by moves, from the state with the queue's rest. -/
theorem step_moves {s t : State} (h : step s = .next t) : Moves { s with pending := s.pending.tail } t := by
  unfold step at h
  split at h
  · rename_i hp
    cases h
    rw [hp]
    have : ({ s with pending := [] } : State) = s := by rw [← hp]
    exact this ▸ .refl s
  · rename_i c rest hp
    rw [hp]
    exact exec_moves h

end Sys2Proof.Machine
end

