-- ==== Sys2Proof/Tests/Slice0.lean ====
section
/-! SUPPORT. Own tests: the checks of WellFormed on ill-formed terms, one or two steps of each command on small states, and for every
statement with hypotheses a concrete state that meets them. -/

namespace Sys2Proof.Tests

open Sys2Proof.Machine Sys2Proof.Safety

set_option Elab.async false

/-! ## Well-formedness: every check refuses an ill-formed term -/

theorem test_wf_arguments_over_48 : (Instr.ident 0 (List.replicate 49 0)).wf = false ∧ (Instr.ident 0 (List.replicate 48 0)).wf = true := by
  decide +kernel
theorem test_wf_unknown_code_is_a_command : (Instr.unknownCommand 0x12 0 []).wf = false := by decide +kernel
theorem test_wf_unknown_code_fetch_only : (Instr.unknownCommand 0xFF 0 []).wf = false := by decide +kernel
theorem test_wf_unknown_code : (Instr.unknownCommand 0x7F 0 []).wf = true := by decide +kernel
theorem test_wf_bad_check_that_is_good : (Instr.frameBadCheck 0x01 0x05 [] 0x04).wf = false := by decide +kernel
theorem test_wf_bad_check_fetch_only : (Instr.frameBadCheck 0xFF 0 [] 0).wf = false := by decide +kernel
theorem test_wf_bad_check : (Instr.frameBadCheck 0x01 0x05 [] 0x05).wf = true := by decide +kernel
theorem test_wf_read_with_data :
    (Instr.request { kind := .read, tag := 0, addr := 0, length := 1, data := [1] }).wf = false := by decide +kernel
theorem test_wf_write_with_data :
    (Instr.request { kind := .write, tag := 0, addr := 0, length := 1, data := [1] }).wf = true := by decide +kernel
theorem test_wf_beat_of_15_bytes : (Instr.readBeat 0 0 true (.ok (List.replicate 15 0))).wf = false := by decide +kernel
theorem test_wf_beat_of_16_bytes : (Instr.readBeat 0 0 true (.ok (List.replicate 16 0))).wf = true := by decide +kernel

/-! ## Small states -/

/-- An assertion in progress, nothing received. -/
def listening : State := { State.reset with port := { Port.reset with selected := true, guard := false } }

/-- The same in the guard of 1 ms. -/
def guarded : State := { State.reset with port := { Port.reset with selected := true } }

/-- The same in the clearing part of a datapath reset. -/
def clearing : State :=
  { State.reset with
    port := { Port.reset with selected := true, guard := false, progress := .clearing }
    link := { Link.reset with accept := .resetting, cause := .resetting } }

/-- An identity of 16 segments. -/
def sixteen : Identity := { serial := 7, capacity := 16, revision := 1 }

/-- A leg that is UP with that identity. -/
def upLeg : LegPort := { LegPort.reset with state := .up, ready := true, identity := some sixteen }

/-- A member on leg `l` with its extent at 0. -/
def member (l : LegIx) (st : Option SlotState) (whole : Bool) : Member :=
  { leg := l, base := 0, state := st, whole := whole, serial := some 7 }

/-- A window of one segment at 0. -/
def window (st : WindowState) (ms : List Member) : Window := { Window.reset with state := st, size := 1, members := ms }

/-- Legs 0 and 1 UP. -/
def legsUp : State := (listening.setLeg 0 upLeg).setLeg 1 upLeg

/-- Legs 0 and 1 UP and window 0 with those members, in a state. -/
def withMembers (st : WindowState) (a b : Option SlotState) (whole : Bool) : State :=
  legsUp.setWin 0 (window st [member 0 a false, member 1 b whole])

/-- A mirrored window: both copies CURRENT. -/
def mirrored : State := withMembers .enabled (some .current) (some .current) false

/-- A window with one copy CURRENT and one STALE and WHOLE. -/
def exposed : State := withMembers .enabled (some .current) (some .stale) true

/-- A LOST window. -/
def lost : State := withMembers .enabled (some .stale) (some .stale) true

/-- The status of the response a step makes. -/
def statusOf (o : Ran) : Option Status := (nextOf o).bind fun t => t.port.newResponse.map (·.status)

/-- A value read from the next state. -/
def after (o : Ran) (f : State → α) : Option α := (nextOf o).map f

/-- A write of one byte at 0. -/
def writeAt0 (t : Tag) : Request := { kind := .write, tag := t, addr := 0, length := 1, data := [0xAB] }

/-- A read of one byte at 0. -/
def readAt0 (t : Tag) : Request := { kind := .read, tag := t, addr := 0, length := 1, data := [] }

/-! ## Management commands -/

theorem test_ident : after (exec (.ident 9 []) listening) (fun t => t.port.newResponse) =
    some (some { seq := 9, status := .done, results := [0x4C, 0x5A, 0x04, 0x24, 0x01, 0x04, 0x10, 0x20, 0x18] }) := by decide +kernel
theorem test_ident_argument : statusOf (exec (.ident 9 [1]) listening) = some .arg := by decide +kernel
theorem test_status_get : after (exec (.statusGet 9 []) mirrored) (fun t => (t.port.newResponse.map (·.results.length))) =
    some (some 19) := by decide +kernel
theorem test_datapath_reset : after (exec (.datapathReset 1 []) mirrored) (fun t => (t.events.queue.map (·.record), t.port.progress)) =
    some ([.resetDone], .none) := by decide +kernel
theorem test_datapath_reset_busy : statusOf (exec (.datapathReset 1 []) clearing) = some .busy := by decide +kernel
theorem test_window_set : after (exec (.windowSet 1 (windowSetArgs 3 65536 2 0x1D [(1, 0), (0, 65536)])) listening) (fun t => t.win 3) =
    some { state := .disabled, base := 65536, size := 2, writePolicy := .lagged, readPolicy := .shortest, lagPolicy := .demote,
           autoRebuild := true, rotate := 0
           members := [{ leg := 1, base := 0, state := none, whole := false, serial := none },
             { leg := 0, base := 65536, state := none, whole := false, serial := none }] } := by decide +kernel
theorem test_window_set_state : statusOf (exec (.windowSet 1 (windowSetArgs 0 1 0 0xFF [])) mirrored) = some .state := by decide +kernel
/-- WINDOW_SET presents a STALLED head again (R157). -/
theorem test_window_set_retries_the_head :
    after (exec (.windowSet 1 (windowSetArgs 3 65536 2 0x1D [(1, 0), (0, 65536)])) { listening with
      link := { Link.reset with head := some (readAt0 5), accept := .stalled, cause := .tagBusy } }) (fun t => (t.link.head, t.link.accept)) =
    some (none, .opened) := by decide +kernel
theorem test_window_get : after (exec (.windowGet 1 [0]) mirrored) (fun t => t.port.newResponse.map (·.results)) =
    some (some [0, 1, 0, 0, 0, 0, 0, 0, 1, 0, 0, 0, 0, 0, 0, 0, 2, 0, 0, 0, 0, 0, 0, 0, 1, 0, 0, 0, 0, 0, 0]) := by decide +kernel
theorem test_window_enable : after (exec (.windowEnable 1 [0, 0]) (withMembers .disabled none none false))
    (fun t => ((t.win 0).members.map fun m => (m.state, m.whole, m.serial))) =
    some [(some .current, false, some 7), (some .stale, true, none)] := by decide +kernel
theorem test_window_disable : after (exec (.windowDisable 1 [0]) mirrored) (fun t => ((t.win 0).state, t.events.queue.map (·.record))) =
    some (.disabled, [.windowDisabled 0]) := by decide +kernel
theorem test_window_reseed : after (exec (.windowReseed 1 [0, 1]) lost) (fun t => (t.win 0).members.map (·.state)) =
    some [some .stale, some .current] := by decide +kernel
theorem test_pass_set : after (exec (.passSet 1 [2]) listening) (·.passLeg) = some (some 2) := by decide +kernel
theorem test_member_add : after (exec (.memberAdd 1 [0, 2, 0, 0, 0, 0, 0, 0]) mirrored) (fun t => (t.win 0).members.getLast?) =
    some (some { leg := 2, base := 0, state := some .stale, whole := true, serial := none }) := by decide +kernel
theorem test_member_remove : after (exec (.memberRemove 1 [0, 1]) mirrored) (fun t => ((t.win 0).members.length, t.events.queue.length)) =
    some (1, 2) := by decide +kernel
theorem test_member_get : after (exec (.memberGet 1 [0, 1]) exposed) (fun t => t.port.newResponse.map (·.results)) =
    some (some [1, 0, 0, 0, 0, 0, 0, 1, 3, 7, 0, 0, 0, 0, 0, 0, 0]) := by decide +kernel
theorem test_leg_enable : after (exec (.legEnable 1 [3]) listening) (fun t => (t.leg 3).state) = some .down := by decide +kernel
theorem test_leg_disable : after (exec (.legDisable 1 [1]) mirrored) (fun t => ((t.leg 1).state, (t.win 0).members.map (·.state))) =
    some (.off, [some .current, some .stale]) := by decide +kernel
theorem test_leg_get : after (exec (.legGet 1 [0]) mirrored) (fun t => t.port.newResponse.map (·.results)) =
    some (some [3, 1, 1, 7, 0, 0, 0, 16, 0, 0, 0, 1, 250, 0, 0, 0, 0, 0, 0, 0, 0, 0, 0, 0, 0]) := by decide +kernel
theorem test_leg_set_timeout : after (exec (.legSetTimeout 1 [0, 0xFF, 0x0F]) mirrored) (fun t => (t.leg 0).timeout) = some 4095 := by
  decide +kernel
theorem test_resync_queue : after (exec (.resyncQueue 1 [0, 1, 2]) exposed)
    (fun t => ((t.win 0).members.map (·.state), t.jobs.map (·.running), t.jobs.map (·.chunks.length), (t.leg 0).copy.length)) =
    some ([some .current, some .rebuilding], [true], [4], 4) := by decide +kernel
theorem test_resync_cancel : statusOf (exec (.resyncCancel 1 [0, 1]) exposed) = some .none := by decide +kernel
theorem test_resync_get : after (exec (.resyncGet 1 []) exposed) (fun t => t.port.newResponse.map (·.results)) = some (some [0, 0]) := by
  decide +kernel
theorem test_stale_count : after (exec (.staleCount 1 [0, 1]) exposed) (fun t => t.port.newResponse.map (·.results)) =
    some (some [0, 0, 1, 0, 0]) := by decide +kernel
theorem test_stale_list : after (exec (.staleList 1 [0, 1, 0, 0, 0, 0]) exposed) (fun t => t.port.newResponse.map (·.results)) =
    some (some [1, 0]) := by decide +kernel
theorem test_event_pop : statusOf (exec (.eventPop 1 []) listening) = some .empty := by decide +kernel
theorem test_event_config : after (exec (.eventConfig 1 [1, 0xFE, 0x0F]) listening) (fun t => (t.events.alertEnable, t.events.mask)) =
    some (true, 0x0FFE) := by decide +kernel
theorem test_health_read : after (exec (.healthRead 1 [0]) listening) (fun t => t.port.newResponse.map (·.results.length)) =
    some (some 12) := by decide +kernel
theorem test_unknown_command : statusOf (exec (.unknownCommand 0x7F 1 []) listening) = some .unknown := by decide +kernel
theorem test_frame_bad_check : statusOf (exec (.frameBadCheck 0x01 1 [] 0xFE) listening) = some .frame := by decide +kernel
theorem test_chip_select_fall : after (exec (.chipSelectFall false) State.reset) (·.port.selected) = some true := by decide +kernel
theorem test_chip_select_rise_incomplete : after (exec (.chipSelectRise [0x01, 0x55]) listening) (·.port.pendingResponse) =
    some (some { seq := 0x55, status := .frame, results := [] }) := by decide +kernel
theorem test_chip_select_rise_fetch : after (exec (.chipSelectRise [0xFF]) listening) (fun t => (t.port.pendingResponse, t.port.selected)) =
    some (none, false) := by decide +kernel
theorem test_reset_assert : after (exec .resetAssert mirrored) (fun t => (t.win 0, (t.leg 0).ready, t.resetAsserted)) =
    some (Window.reset, true, true) := by decide +kernel
theorem test_reset_release : after (exec .resetRelease { State.reset with resetAsserted := true }) id = some State.reset := by decide +kernel
theorem test_reset_guard_end : after (exec .resetGuardEnd State.reset) (·.port.guard) = some false := by decide +kernel

/-! ## The request link and the internal steps -/

/-- A tracked write of one byte at 0, to be sent to legs 0 and 1. -/
def writeEntry (owed acked : List LegIx) (h : Held) : WriteEntry where
  ref := 0
  tag := 5
  window := some 0
  addr := 0
  length := 1
  segment := some 0
  legAddrs := [(0, 0), (1, 0)]
  data := [0xAB]
  policy := some .sync
  owed := owed
  acked := acked
  answered := false
  held := h

/-- A tracked read of 17 bytes at 0, two beats. -/
def readEntry (tried : List LegIx) (current : Option LegIx) : ReadEntry where
  ref := 0
  tag := 6
  window := some 0
  addr := 0
  length := 17
  segment := some 0
  legAddrs := [(0, 0), (1, 0)]
  beatsTotal := 2
  delivered := 0
  tried := tried
  current := current
  issueBeat := current.map fun _ => 0
  failedOn := none

/-- An entry of an in-flight table under number 0. -/
def flight (kind : ReqKind) (owner : Owner) (c : Condition) : Flight where
  number := 0
  kind := kind
  length := 17
  beatsExpected := if kind = .read then some 2 else none
  beatsTaken := 0
  owner := some owner
  timerRunning := true
  timeout := 250
  condition := c
  counted := false

/-- A leg that is UP with that entry. -/
def upWith (f : Flight) : LegPort := { upLeg with nextNumber := 1, inflight := [f] }

/-- A write in flight at leg 1, which leg 0 has acknowledged. -/
def writing (c : Condition) : State :=
  { mirrored.setLeg 1 (upWith (flight .write (.write 0 (some 0)) c)) with
    writes := [writeEntry [1] [0] .no]
    link := { Link.reset with tags := [{ tag := 5, due := .writeAnswer }] }
    nextRef := 1 }

/-- A read in flight at leg 0. -/
def reading (c : Condition) : State :=
  { mirrored.setLeg 0 (upWith (flight .read (.read 0) c)) with
    reads := [readEntry [0] (some 0)]
    link := { Link.reset with tags := [{ tag := 6, due := .beats 2 }] }
    nextRef := 1 }

/-- A job for slot (0, 1), queued. -/
def queuedJob : Job := newJob 0 0 1 .auto

/-- A job for slot (0, 1), running in its first pass of segment 0, its source absent. -/
def runningAt (source : Option LegIx) (chunks : List Chunk) : Job :=
  { queuedJob with
    mode := .full, running := true, source := source, segment := some 0, pass := some 1, chunks := chunks, nextChunk := chunks.length
    segmentsTotal := some 1 }

/-- A rebuild of leg 1 from leg 0. -/
def rebuilding (j : Job) : State :=
  { withMembers .enabled (some .current) (some .rebuilding) true with jobs := [j], nextJob := 1 }

/-- A released write alone in the hold queue. -/
def releasedWrite (s : State) : State :=
  { s with writes := [writeEntry [] [] .released], hold := [0], nextRef := 1 }

theorem test_request_write : after (exec (.request (writeAt0 5)) mirrored) (fun t => (t.writes.map (·.owed), (t.leg 1).direct.length,
    t.link.tags)) = some ([[0, 1]], 1, [{ tag := 5, due := .writeAnswer }]) := by decide +kernel
theorem test_request_uncovered : after (exec (.request (readAt0 5)) listening) (fun t => t.link.answers) =
    some [.beat 5 0 .fault (List.replicate 16 0)] := by decide +kernel
theorem test_head_retry : after (exec .headRetry { mirrored with link := { Link.reset with
    head := some (writeAt0 5), accept := .stalled, cause := .trackerFull } }) (fun t => (t.link.accept, t.writes.length)) =
    some (.opened, 1) := by decide +kernel
theorem test_release_resume : after (exec .releaseResume (releasedWrite mirrored)) (fun t => (t.hold, t.writes.map (·.owed))) =
    some ([], [[0, 1]]) := by decide +kernel
theorem test_release_in_lost_window : after (exec .releaseResume (releasedWrite lost)) (fun t => (t.writes.length, t.link.answers)) =
    some (0, [.write 5 .fault]) := by decide +kernel
theorem test_read_reconsider : after (exec .readReconsider { mirrored with
    reads := [{ readEntry [0] none with failedOn := some 0 }] }) (fun t => (t.reads.map (·.current), (t.counters 0).failovers)) =
    some ([some 1], 1) := by decide +kernel
theorem test_answer_item_taken : after (exec .answerItemTaken { reading .live with link := { (reading .live).link with
    answers := [.beat 6 0 .fault []] } }) (fun t => t.link.tags) = some [{ tag := 6, due := .beats 1 }] := by decide +kernel
theorem test_ready_rise : after (exec (.readyRise 0) (listening.setLeg 0 { LegPort.reset with state := .down }))
    (fun t => ((t.leg 0).state, (t.leg 0).sent)) = some (.identifying, some .identityRequest) := by decide +kernel
theorem test_ready_fall : after (exec (.readyFall 1) (writing .live)) (fun t => ((t.leg 1).state, t.writes.length, t.link.answers,
    (t.win 0).members.map (·.state))) = some (.down, 0, [.write 5 .okay], [some .current, some .stale]) := by decide +kernel
theorem test_identity_answer : after (exec (.identityAnswer 2 (.record 9 268435456 1)) (listening.setLeg 2 { LegPort.reset with
    state := .identifying })) (fun t => ((t.leg 2).state, (t.leg 2).identity)) =
    some (.up, some { serial := 9, capacity := 268435456, revision := 1 }) := by decide +kernel
theorem test_identity_answer_over_capacity : after (exec (.identityAnswer 2 (.record 9 268435457 1)) (listening.setLeg 2
    { LegPort.reset with state := .identifying })) (fun t => ((t.leg 2).state, (t.leg 2).identity)) = some (.faulted, none) := by decide +kernel
theorem test_identity_timeout : after (exec (.identityTimeout 2) (listening.setLeg 2 { LegPort.reset with state := .identifying }))
    (fun t => ((t.leg 2).state, (t.counters 2).timeouts)) = some (.faulted, 1) := by decide +kernel
theorem test_leg_send : after (exec (.legSend 0) (mirrored.setLeg 0 { upLeg with
    direct := [{ kind := .read, addr := 0, length := 1, data := [], owner := .read 0, age := 3 }]
    lag := [{ kind := .write, addr := 0, length := 1, data := [1], owner := .write 0 (some 0), age := 2 }], nextAge := 4 }))
    (fun t => ((t.leg 0).direct.length, (t.leg 0).lag.length, (t.leg 0).inflight.length, (t.leg 0).arbiter)) = some (1, 0, 1, 1) := by
  decide +kernel
theorem test_write_response : after (exec (.writeResponse 1 0 true) (writing .live)) (fun t => (t.writes.length, t.link.answers)) =
    some (0, [.write 5 .okay]) := by decide +kernel
theorem test_write_response_error : after (exec (.writeResponse 1 0 false) (writing .live)) (fun t => ((t.leg 1).state, t.link.answers,
    (t.counters 1).writeFailures)) = some (.faulted, [.write 5 .okay], 1) := by decide +kernel
theorem test_read_beat : after (exec (.readBeat 0 0 true (.ok (List.replicate 16 0x77))) (reading .live)) (fun t => (t.link.answers,
    t.reads.map (·.delivered))) = some ([.beat 6 0 .okay (List.replicate 16 0x77)], [1]) := by decide +kernel
theorem test_read_beat_error : after (exec (.readBeat 0 0 true .error) (reading .live)) (fun t => (t.reads.map (·.current),
    (t.counters 0).readFailures, (t.counters 0).failovers)) = some ([some 1], 1, 1) := by decide +kernel
theorem test_entry_timer_expiry : after (exec (.entryTimerExpiry 1 0) (writing .live)) (fun t => ((t.leg 1).state,
    (t.leg 1).inflight.map (·.condition), (t.counters 1).timeouts)) = some (.faulted, [.expired], 1) := by decide +kernel
theorem test_job_start_attempt : after (exec .jobStartAttempt { exposed with jobs := [queuedJob], nextJob := 1 })
    (fun t => (t.jobs.map (·.chunks.length), (t.leg 0).copy.length)) = some ([4], 4) := by decide +kernel
theorem test_source_retake : after (exec .sourceRetake (rebuilding (runningAt none []))) (fun t => t.jobs.map (·.source)) =
    some [some 0] := by decide +kernel
theorem test_chunk_read_place : after (exec .chunkReadPlace (rebuilding (runningAt (some 0) []))) (fun t => (t.leg 0).copy.map (·.addr)) =
    some [0, 256, 512, 768] := by decide +kernel
theorem test_drain_complete : after (exec (.drainComplete 0) (withMembers .draining (some .current) (some .current) false))
    (fun t => ((t.win 0).state, (t.win 0).members.map (·.state))) = some (.disabled, [none, none]) := by decide +kernel
theorem test_reset_done : after (exec .resetDone clearing) (fun t => (t.port.progress, t.link.accept)) = some (.none, .opened) := by decide +kernel

/-! ## What the statements assume: a concrete state for every clause -/

/-- The arguments of a command, 48 bytes, the longest a frame carries. -/
def longest : List Byte := List.replicate 48 0

theorem test_witness_StepTakesTheFrontCommand :
    ({ listening with pending := [.headRetry] } : State).pending = [.headRetry] ∧ listening.pending = [] := ⟨rfl, rfl⟩

theorem test_witness_ReactionsKeepWhatTheyDoNotOwn : mirrored.notice.any = false ∧ mirrored.link.waiting = [] ∧
    ({ mirrored with resetAsserted := true } : State).resetAsserted = true ∧
    ({ mirrored with link := { Link.reset with head := some (writeAt0 1) } } : State).link.head ≠ none := by decide +kernel

theorem test_witness_ResetReleaseStartsFreshUnderTheGuard :
    ({ mirrored with resetAsserted := true } : State).link.waiting = [] ∧
    ({ mirrored with resetAsserted := true, link := { Link.reset with waiting := [writeAt0 1] } } : State).link.waiting = [writeAt0 1] ∧
    mirrored.resetAsserted = false ∧ commandFrame (.ident 1 longest) = some (0x01, 1, longest) ∧ longest.length ≤ 48 ∧
    ListeningInGuard guarded := by decide +kernel

theorem test_witness_EveryFrameIsAnsweredOnce :
    commandFrame (.unknownCommand 0x7F 1 longest) = some (0x7F, 1, longest) ∧ longest.length ≤ 48 ∧ Listening listening := by decide +kernel

theorem test_witness_DatapathResetAnswersBusy : (0x41 : Byte) ∈ busyCodes ∧
    commandFrame (.resyncCancel 1 longest) = some (0x41, 1, longest) ∧ Listening clearing ∧ clearing.port.progress ≠ .none := by decide +kernel

theorem test_witness_BadFramesAreRefused_lengths :
    argumentLength 0x01 = some 0 ∧ argumentLength 0x20 = some 8 ∧ ([0] : List Byte).length ≠ 0 ∧ longest.length ≠ 8 ∧
    Listening listening ∧ listening.port.progress = .none := by decide +kernel

theorem test_witness_BadFramesAreRefused_operands :
    BadOperand 0x11 [16] ∧ BadOperand 0x22 [0, 4] ∧ BadOperand 0x30 [4] ∧ BadOperand 0x12 [0, 4] ∧ BadOperand 0x15 [0xFE] ∧
    BadOperand 0x40 [0, 0, 3] ∧ BadOperand 0x61 [2, 0, 0] ∧ BadOperand 0x61 [0, 1, 0] ∧ BadOperand 0x61 [0, 0, 16] ∧
    BadOperand 0x33 [0, 0, 0] ∧ BadOperand 0x33 [0, 0, 0x10] ∧ BadOperand 0x20 [0, 0, 0xFF, 0xFF, 0, 0, 0, 0] ∧
    BadOperand 0x51 [0, 0, 0, 0, 0, 1] := by
  refine ⟨?_, ?_, ?_, ?_, ?_, ?_, ?_, ?_, ?_, ?_, ?_, ?_, ?_⟩ <;> unfold BadOperand <;> decide +kernel

theorem test_witness_BadFramesAreRefused_codes :
    (0x7F : Byte) ∉ commandCodes ∧ (0x7F : Byte) ≠ 0xFF ∧ xorAll (wholeFrame 0x01 1 longest 0) ≠ 0 := by decide +kernel

theorem test_witness_AnAssertionCarriesOneFrame :
    State.reset.port.selected = false ∧ ({ listening with resetAsserted := true } : State).resetAsserted = true ∧
    ({ listening with port := { listening.port with condition := .overlong } } : State).port.condition = .overlong := by decide +kernel

/-- The port between assertions, with a response installed at the last rise. -/
def installed : State := { State.reset with port := { Port.reset with
  guard := false, installed := true, pendingResponse := some { seq := 1, status := .done, results := [] } } }

theorem test_witness_ChipSelectFallShiftsOutThePending :
    listening.port.selected = true ∧ State.reset.port.selected = false ∧ State.reset.resetAsserted = false ∧
    State.reset.port.installed = false ∧ installed.port.selected = false ∧ installed.port.installed = true := by decide +kernel

theorem test_witness_ChipSelectRiseInstallsTheResponse :
    State.reset.port.selected = false ∧ listening.port.selected = true ∧ listening.resetAsserted = false ∧
    listening.port.condition = .none ∧ listening.port.buffer = [] ∧ 48 < (49 : Byte).toNat ∧
    ([0x55] : List Byte).length < 2 ∧ (([0x55, 48] : List Byte).getD 1 0).toNat ≤ 48 ∧ ([0x55, 48] : List Byte).length < 48 + 3 := by decide +kernel

theorem test_witness_ResponseFramesAreLaidOutAndShiftedOut :
    Port.reset.shiftOut = none ∧
    ({ Port.reset with shiftOut := some { seq := 1, status := .done, results := [] } } : Port).shiftOut =
      some { seq := 1, status := .done, results := [] } := by decide +kernel

/-- Every command of the port that asks nothing of the device but a datapath reset's absence (the premises of the statements about
management commands). -/
theorem test_witness_port_hears : Listening listening ∧ listening.port.progress = .none ∧ Listening clearing ∧
    Listening mirrored ∧ mirrored.port.progress = .none ∧ 15 < (16 : Byte).toNat ∧ 3 < (4 : Byte).toNat ∧ 2 < (3 : Byte).toNat := by decide +kernel

/-- Two writes owed: one by the lead, which the other copy has acknowledged. -/
theorem test_witness_DatapathResetEmptiesTheDatapath :
    findWrite mirrored 0 = none ∧
    (∀ e ∈ [writeEntry [0] [1] .no, writeEntry [1] [0] .no], findWrite { mirrored with writes := [e] } 0 = some e ∧
      e.window = some 0 ∧ e.segment = some 0) ∧
    leadOf (mirrored.win 0) = some (member 0 (some .current) false) ∧ leadOf (lost.win 0) = none ∧
    runningJob (rebuilding (runningAt none [])) = some (runningAt none []) := by decide +kernel

/-- The lead stays CURRENT; the other copy goes, and the segment that the lead may have missed is recorded against it. -/
theorem test_reset_slots_record :
    let t := resetSlots { mirrored with writes := [writeEntry [0] [1] .no] }
    (t.win 0).members.map (·.state) = [some .current, some .stale] ∧ t.store = [{ window := 0, leg := 1, segment := 0 }] := by decide +kernel

/-- A copy that is demoted with its owed bit clear has the segment recorded though it acknowledged nothing (R41). -/
theorem test_reset_slots_record_directly :
    let t := resetSlots { mirrored with writes := [writeEntry [0] [] .no] }
    (t.win 0).members.map (·.state) = [some .current, some .stale] ∧ t.store = [{ window := 0, leg := 1, segment := 0 }] := by decide +kernel

theorem test_witness_WindowSetChecksAndReplacesTheRecord :
    [statusOf (exec (.windowSet 1 (windowSetArgs 0 0 1 0 [(0, 0)])) clearing),
     statusOf (exec (.windowSet 1 (windowSetArgs 16 0 1 0 [(0, 0)])) listening),
     statusOf (exec (.windowSet 1 (windowSetArgs 0 0 1 0 [(0, 0)])) mirrored),
     statusOf (exec (.windowSet 1 (windowSetArgs 15 1 1 0 [(0, 0)])) listening),
     statusOf (exec (.windowSet 1 (windowSetArgs 15 0 1 0 [(0, 65535)])) listening),
     statusOf (exec (.windowSet 1 (windowSetArgs 15 0 0 0 [(0, 0)])) listening),
     statusOf (exec (.windowSet 1 (windowSetArgs 15 0 16777217 0 [(0, 0)])) listening),
     statusOf (exec (.windowSet 1 (windowSetArgs 15 281474976645120 2 0 [(0, 0)])) listening),
     statusOf (exec (.windowSet 1 (windowSetArgs 15 0 1 0 [])) listening),
     statusOf (exec (.windowSet 1 (windowSetArgs 15 0 1 0 [(0, 0), (1, 0), (2, 0), (3, 0), (0, 0)])) listening),
     statusOf (exec (.windowSet 1 (windowSetArgs 15 0 1 0 [(4, 0)])) listening),
     statusOf (exec (.windowSet 1 (windowSetArgs 15 0 1 0 [(1, 0), (1, 65536)])) listening),
     statusOf (exec (.windowSet 1 (windowSetArgs 15 0 1 6 [(0, 0)])) listening),
     statusOf (exec (.windowSet 1 (windowSetArgs 15 0 1 32 [(0, 0)])) listening),
     statusOf (exec (.windowSet 1 (windowSetArgs 15 281474976645120 1 31 [(0, 0), (1, 0), (2, 0), (3, 0)])) listening)] =
    [some .busy, some .arg, some .state, some .arg, some .arg, some .arg, some .arg, some .arg, some .arg, some .arg, some .arg,
     some .arg, some .arg, some .arg, some .arg] := by decide +kernel

theorem test_witness_WindowSet_wrong_length : longest.length ≠ 13 + 7 * (longest.getD 12 0).toNat ∧
    statusOf (exec (.windowSet 1 longest) clearing) = some .busy ∧ statusOf (exec (.windowSet 1 longest) mirrored) = some .arg := by decide +kernel

theorem test_witness_WindowSet_done :
    statusOf (exec (.windowSet 1 (windowSetArgs 15 281474976645120 1 29 [(0, 0), (1, 0), (2, 0), (3, 0)])) listening) = some .done := by
  decide +kernel

/-- Window 0 DISABLED on legs 0 and 1, window 1 ENABLED at `base` on leg 0 at `ext`. -/
def second (base ext : Nat) : State :=
  (withMembers .disabled none none false).setWin 1 { window .enabled [{ member 0 (some .current) false with base := ext }] with base := base }

/-- Window 0 DISABLED of 17 segments: no leg has the capacity. -/
def tooLarge : State :=
  (withMembers .disabled none none false).setWin 0 { window .disabled [member 0 none false, member 2 none false] with size := 17 }

theorem test_witness_WindowEnableAnswersByItsTable :
    (mirrored.win 0).state ≠ .disabled ∧ RangeOverlaps (second 0 0) 0 ∧
    (¬ RangeOverlaps (second 65536 0) 0 ∧ ExtentOverlaps (second 65536 0) (· ≠ 0) 0 0 65536) ∧
    (¬ RangeOverlaps (second 65536 65536) 0 ∧ ¬ ExtentOverlaps (second 65536 65536) (fun v => v ≠ 0) 0 0 65536 ∧
      ¬ ExtentOverlaps (second 65536 65536) (fun v => v ≠ 0) 1 0 65536) ∧
    (∃ m, Considered ((second 65536 65536).win 0) .all m ∧ ((second 65536 65536).leg m.leg).state = .up ∧
      Fits (second 65536 65536) m.leg m.base ((second 65536 65536).win 0).size) ∧
    (∀ m, Considered (tooLarge.win 0) (.leg 2) m → (tooLarge.leg m.leg).state ≠ .up) ∧
    (∀ m, Considered (tooLarge.win 0) (.leg 3) m → (tooLarge.leg m.leg).state ≠ .up) ∧
    (∃ m, Considered (tooLarge.win 0) .all m ∧ (tooLarge.leg m.leg).state = .up) ∧
    (∀ m, Considered (tooLarge.win 0) .all m → (tooLarge.leg m.leg).state = .up → ¬ Fits tooLarge m.leg m.base 17) := by
  have hc : ∀ p : WinIx → Prop, (∀ v, p v ↔ some (0 : WinIx) ≠ some v) → p = fun v => some (0 : WinIx) ≠ some v := fun p h =>
    funext fun v => propext (h v)
  have h0 := hc (· ≠ 0) fun v => by simp [eq_comm]
  have hm : ∀ m ∈ (tooLarge.win 0).members, m = member 0 none false ∨ m = member 2 none false := by
    intro m h; simpa [tooLarge, window, State.win, State.setWin] using h
  refine ⟨by decide, rangeTaken_iff.mp (by decide +kernel), ⟨?_, ?_⟩, ⟨?_, ?_, ?_⟩, ?_, ?_, ?_, ?_, ?_⟩
  · rw [← rangeTaken_iff]; decide +kernel
  · rw [h0, ← extentTaken_iff]; decide +kernel
  · rw [← rangeTaken_iff]; decide +kernel
  · rw [h0, ← extentTaken_iff]; decide +kernel
  · rw [h0, ← extentTaken_iff]; decide +kernel
  · exact ⟨member 0 none false, ⟨by decide +kernel, Or.inl rfl⟩, by decide, fitsLeg_iff.mp (by decide +kernel)⟩
  · rintro m ⟨h, hs⟩
    rcases hm m h with rfl | rfl
    · exact absurd hs (by decide)
    · decide
  · rintro m ⟨h, hs⟩
    rcases hm m h with rfl | rfl <;> exact absurd hs (by decide)
  · exact ⟨member 0 none false, ⟨by decide +kernel, Or.inl rfl⟩, by decide⟩
  · rintro m ⟨h, _⟩ _
    rw [← fitsLeg_iff]
    rcases hm m h with rfl | rfl <;> decide +kernel

/-- Window 0 with auto-rebuild. -/
def withAuto (s : State) : State := s.setWin 0 { s.win 0 with autoRebuild := true }

/-- A window with auto-rebuild gets an AUTO job for its STALE member (R14). -/
theorem test_enable_queues_auto_job : (autoQueuedAll 0 (withAuto exposed)).jobs = [newJob 0 0 1 .auto] := by decide +kernel

theorem test_witness_EnablingSeedsTheSlots :
    (member 0 none false ∈ ((second 65536 65536).win 0).members ∧
      Considered ((second 65536 65536).win 0) (.leg 0) (member 0 none false) ∧
      ((second 65536 65536).leg 0).state = .up ∧ Fits (second 65536 65536) 0 0 ((second 65536 65536).win 0).size) ∧
    (member 1 none false ∈ ((second 65536 65536).win 0).members ∧
      ¬ Considered ((second 65536 65536).win 0) (.leg 0) (member 1 none false)) ∧
    ((second 65536 65536).win 0).autoRebuild = false ∧
    ((withAuto (second 65536 65536)).win 0).autoRebuild = true ∧ (((withAuto (second 65536 65536)).win 0).members.map (·.leg)).Nodup := by
  refine ⟨⟨by decide +kernel, ⟨by decide +kernel, Or.inr rfl⟩, by decide, fitsLeg_iff.mp (by decide +kernel)⟩,
    ⟨by decide +kernel, fun h => absurd h.2 (by decide)⟩, by decide, by decide, by decide⟩

theorem test_witness_WindowDisableStartsTheDrain :
    (listening.win 0).state = .disabled ∧ ((withMembers .draining none none false).win 0).state = .draining ∧
    (mirrored.win 0).state = .enabled ∧ outstanding (startDrain 0 (heard 0x13 1 [0] mirrored)) 0 = false ∧
    ((writing .live).win 0).state = .enabled ∧ outstanding (startDrain 0 (heard 0x13 1 [0] (writing .live))) 0 = true ∧
    runningJob mirrored = none ∧ runningJob (rebuilding (runningAt none [])) = some (runningAt none []) := by decide +kernel

theorem test_witness_DrainCompletesWhenNothingIsOutstanding :
    (mirrored.win 0).state ≠ .draining ∧ outstanding (writing .live) 0 = true ∧
    ((withMembers .draining none none false).win 0).state = .draining ∧ outstanding (withMembers .draining none none false) 0 = false := by
  decide +kernel

theorem test_witness_WindowReseedTakesTheNamedCopy :
    ((lost.win 0).autoRebuild = false ∧ ((withAuto lost).win 0).autoRebuild = true ∧ ((lost.win 0).members.map (·.leg)).Nodup) ∧
    (listening.win 0).state ≠ .enabled ∧ (¬ ∀ m ∈ (mirrored.win 0).members, m.state ≠ some .current) ∧
    ((lost.win 0).state = .enabled ∧ (∀ m ∈ (lost.win 0).members, m.state ≠ some .current) ∧ memberOf lost 0 3 = none ∧
      memberOf lost 0 1 = some (member 1 (some .stale) true) ∧ (lost.leg 1).state = .up ∧ ((lost.setLeg 1 LegPort.reset).leg 1).state ≠ .up) ∧
    Fits lost 1 0 (lost.win 0).size ∧ ¬ Fits lost 1 (16 * 65536) (lost.win 0).size := by
  refine ⟨by decide +kernel, by decide +kernel, by decide +kernel, by decide +kernel, fitsLeg_iff.mp (by decide +kernel), ?_⟩
  rw [← fitsLeg_iff]; decide +kernel

/-- Window 0 with four members. -/
def full : State := mirrored.setWin 0 (window .enabled [member 0 (some .current) false, member 1 (some .stale) true,
  member 2 (some .stale) true, member 3 (some .stale) true])

theorem test_witness_MemberAddAppendsAStaleMember :
    (281474976645120 < 2 ^ 48 ∧ 281474976645120 % 65536 = 0) ∧ (listening.win 0).state ≠ .enabled ∧
    ((mirrored.win 0).state = .enabled ∧ (∃ m ∈ (mirrored.win 0).members, m.leg = 1) ∧ (∀ m ∈ (mirrored.win 0).members, m.leg ≠ 2) ∧
      (mirrored.win 0).members.length < 4) ∧
    4 ≤ (full.win 0).members.length ∧
    (∀ m ∈ ((second 65536 65536).win 1).members, m.leg ≠ 1) ∧
    ExtentOverlaps (full.setWin 1 (window .enabled [])) (fun _ => True) 2 0 65536 ∧
    ¬ ExtentOverlaps mirrored (fun _ => True) 2 0 65536 ∧
    (mirrored.leg 2).state ≠ .up ∧ (mirrored.leg 1).state = .up ∧ Fits mirrored 1 0 (mirrored.win 0).size ∧
    ¬ Fits mirrored 1 (16 * 65536) (mirrored.win 0).size ∧ (mirrored.win 0).autoRebuild = false ∧
    ({ mirrored.setWin 0 { mirrored.win 0 with autoRebuild := true } with jobs := List.replicate 8 queuedJob } : State).jobs.length = 8 := by
  have h1 : (fun v => (none : Option WinIx) ≠ some v) = fun _ => True := by funext v; simp
  refine ⟨by decide, by decide +kernel, by decide +kernel, by decide +kernel, by decide +kernel, ?_, ?_, by decide, by decide,
    fitsLeg_iff.mp (by decide +kernel), ?_, by decide, by decide⟩
  · rw [← h1, ← extentTaken_iff]; decide +kernel
  · rw [← h1, ← extentTaken_iff]; decide +kernel
  · rw [← fitsLeg_iff]; decide +kernel

theorem test_witness_MemberRemoveClearsTheMember :
    (listening.win 0).state ≠ .enabled ∧ (mirrored.win 0).state = .enabled ∧ memberOf mirrored 0 2 = none ∧
    memberOf mirrored 0 1 = some (member 1 (some .current) false) ∧ (mirrored.win 0).members.length ≠ 1 ∧
    ((mirrored.win 0).members.filter fun k => k.state == some .current).length ≠ 1 ∧
    memberOf exposed 0 0 = some (member 0 (some .current) false) ∧
    ((exposed.win 0).members.filter fun k => k.state == some .current).length = 1 ∧
    memberOf exposed 0 1 = some (member 1 (some .stale) true) ∧
    ((second 0 0).win 1).members.length = 1 := by decide +kernel

theorem test_witness_MemberRemove_jobs_and_reads :
    ((writing .live).writes.map (·.ref)).Nodup ∧ (∀ j ∈ mirrored.jobs, ¬ (j.window = 0 ∧ j.target = 1)) ∧
    ({ exposed with jobs := [queuedJob] } : State).jobs.find? (fun j => j.window == 0 && j.target == 1) = some queuedJob ∧
    queuedJob.running = false ∧ runningJob ({ exposed with jobs := [queuedJob] } : State) = none ∧
    (rebuilding (runningAt none [])).jobs.find? (fun j => j.window == 0 && j.target == 1) = some (runningAt none []) ∧
    runningJob (rebuilding (runningAt none [])) = some (runningAt none []) ∧
    isSource (rebuilding (runningAt (some 0) [])) 0 0 = true ∧
    (takeBackReads 0 0 (reading .live)).reads.map (·.current) = [some 1] := by decide +kernel

/-- A queued job leaves by its slot: another job with its number stays. -/
theorem test_queued_job_leaves_by_its_slot :
    let other := { queuedJob with window := 1 }
    (removeMember 0 1 { exposed with jobs := [queuedJob, other] }).jobs = [other] ∧
    (cancelJob queuedJob { exposed with jobs := [queuedJob, other] }).jobs = [other] := by decide +kernel

theorem test_witness_SlotQueriesReportTheSlot :
    memberOf exposed 0 1 = some (member 1 (some .stale) true) ∧ memberOf exposed 0 2 = none ∧ 16777215 < 16777216 := by decide +kernel

theorem test_witness_DemotionRecordsWhatTheSlotMayHaveMissed :
    slotState mirrored 0 1 = some .current ∧ slotState (rebuilding (runningAt (some 0) [])) 0 1 = some .rebuilding ∧
    slotState exposed 0 1 ≠ some .current ∧ slotState exposed 0 1 ≠ some .rebuilding ∧
    writeEntry [1] [0] .no ∈ (writing .live).writes ∧ (writeEntry [1] [0] .no).window = some 0 ∧ 1 ∈ (writeEntry [1] [0] .no).owed ∧
    slotState (writing .live) 0 1 = some .current ∧ runningJob (rebuilding (runningAt (some 0) [])) = some (runningAt (some 0) []) ∧
    isSource (rebuilding (runningAt (some 0) [])) 0 0 = true := by decide +kernel

/-- The demotion of the last CURRENT slot of a window whose other slot is rebuilt makes it LOST while the job runs. -/
theorem test_witness_Demotion_lost :
    let t := demoteOne resumeRelease 0 0 .legLeft .targetDown false (rebuilding (runningAt (some 0) []))
    (runningJob t).map (·.window) = some 0 ∧ isLost (t.win 0) = true ∧ slotState t 0 1 = some .rebuilding := by decide +kernel

theorem test_witness_Demotion_holding :
    let t := demoteOne (fun u => u) 0 0 .legLeft .targetDown false (rebuilding (runningAt (some 0) []))
    (runningJob t).map (·.window) = some 0 ∧ isLost (t.win 0) = true ∧
    runningJob (demoteOne (fun u => u) 0 1 .legLeft .targetDown false mirrored) = none := by decide +kernel

/-- A state whose leg 0 is in a state, its READY level given. -/
def legIn (st : LegState) (ready : Bool) : State := listening.setLeg 0 { LegPort.reset with state := st, ready := ready }

theorem test_witness_leg_states :
    ((legIn .off true).leg 0).state = .off ∧ ((legIn .off true).leg 0).ready = true ∧ ((legIn .off false).leg 0).ready = false ∧
    ((legIn .down false).leg 0).state = .down ∧ ((legIn .identifying true).leg 0).state = .identifying ∧
    ((legIn .up true).leg 0).state = .up ∧ ((legIn .faulted true).leg 0).state = .faulted ∧ Listening (legIn .up true) ∧
    (legIn .up true).port.progress = .none := by decide +kernel

theorem test_witness_IdentityExchangeEndsUpOrFaulted :
    ({ legIn .identifying true with resetAsserted := true } : State).resetAsserted = true ∧
    (legIn .identifying true).resetAsserted = false ∧ ((legIn .identifying true).leg 0).state = .identifying ∧
    ((legIn .up true).leg 0).state ≠ .identifying ∧ 1 ≤ 268435456 ∧ 268435456 ≤ 268435456 ∧ 268435456 < 268435457 := by decide +kernel

/-- A window whose slot on leg 1 is STALE, with a serial, a mark and an entry in the store. -/
def stale (v : BitVec 32) (whole : Bool) (base : Nat) (st : List StaleEntry) : State :=
  { legsUp.setWin 0 (window .enabled [member 0 (some .current) false,
      { member 1 (some .stale) whole with serial := some v, base := base }]) with store := st }

theorem test_witness_ArrivalVisitsTheStaleSlot :
    (memberOf (stale 8 false 0 []) 0 1 = some { member 1 (some .stale) false with serial := some 8 } ∧ (8 : BitVec 32) ≠ sixteen.serial) ∧
    ((stale 7 false 0 []).leg 1).identity = some sixteen ∧ (7 : BitVec 32) = sixteen.serial ∧
    ¬ Fits (stale 7 false (16 * 65536) []) 1 (16 * 65536) ((stale 7 false (16 * 65536) []).win 0).size ∧
    Fits (stale 7 false (15 * 65536) []) 1 (15 * 65536) ((stale 7 false (15 * 65536) []).win 0).size ∧
    staleList (stale 7 false 0 []) 0 1 = [] ∧ staleList (stale 7 false 0 [{ window := 0, leg := 1, segment := 0 }]) 0 1 ≠ [] ∧
    memberOf (stale 7 true 0 []) 0 1 = some (member 1 (some .stale) true) := by
  refine ⟨by decide +kernel, by decide +kernel, by decide, ?_, fitsLeg_iff.mp (by decide +kernel), by decide +kernel, by decide +kernel,
    by decide +kernel⟩
  rw [← fitsLeg_iff]; decide +kernel

/-- What an arrival may find: a window with auto-rebuild and without a job for the slot, and one that is LOST. -/
theorem test_witness_Arrival_jobs :
    (((withAuto (stale 7 true 0 [])).win 0).state = .enabled ∧ isLost ((withAuto (stale 7 true 0 [])).win 0) = false ∧
      ((withAuto (stale 7 true 0 [])).win 0).autoRebuild = true ∧ (withAuto (stale 7 true 0 [])).jobs = []) ∧
    (let s := withAuto (withMembers .enabled (some .stale) (some .stale) false)
     isLost (s.win 0) = true ∧ (s.win 0).state = .enabled ∧ ((s.win 0).members.map (·.leg)).Nodup ∧
      memberOf s 0 1 = some (member 1 (some .stale) false) ∧ staleList s 0 1 = []) := by decide +kernel

theorem test_witness_Arrival_visits :
    (listening.win 0).state = .disabled ∧ memberOf mirrored 0 2 = none ∧ ((mirrored.setLeg 1 LegPort.reset).leg 1).identity = none ∧
    memberOf mirrored 0 1 = some (member 1 (some .current) false) ∧ (mirrored.leg 1).identity = some sixteen ∧
    memberOf exposed 0 1 = some (member 1 (some .stale) true) ∧ (exposed.leg 1).identity = some sixteen ∧
    (exposed.win 0).state ≠ .disabled := by decide +kernel

theorem test_witness_LeavingUpEmptiesTheLeg : (LegState.down ≠ .up ∧ LegState.off ≠ .up ∧ LegState.faulted ≠ .up) ∧
    slotState mirrored 0 1 = some .current ∧ slotState (rebuilding (runningAt none [])) 0 1 = some .rebuilding ∧
    (runningAt (some 0) []).source = some 0 ∧ runningJob mirrored = none := by decide +kernel

/-- A leg that is UP with one request in its copy channel, its table holding `n` entries from number 1. -/
def sending (n : Nat) : LegPort :=
  { upLeg with
    copy := [{ kind := .read, addr := 0, length := 256, data := [], owner := .chunk 0 0, age := 0 }]
    nextAge := 1
    inflight := (List.range n).map fun k => { flight .read (.chunk 0 0) .closing with number := BitVec.ofNat 8 (k + 1) } }

theorem test_witness_LegSendsOneRequest :
    ((sending 15).state = .up ∧ (sending 15).inflight.length < 16 ∧ (∀ f ∈ (sending 15).inflight, f.number ≠ (sending 15).nextNumber) ∧
      (sending 15).copy ≠ []) ∧
    ¬ (sending 16).inflight.length < 16 ∧ LegPort.reset.state ≠ .up ∧
    ¬ (∀ f ∈ (upWith (flight .read (.read 0) .closing)).inflight, f.number ≠ { upLeg with nextNumber := 0 }.nextNumber) ∧
    (upLeg.direct = [] ∧ upLeg.lag = [] ∧ upLeg.copy = []) := by decide +kernel

theorem test_witness_NoOlderOverlappingRequestIsPassed :
    AgeOrder (sending 0) ∧ (sending 0).queue .copy ≠ [] := by
  refine ⟨⟨⟨by decide +kernel, by decide +kernel⟩, ⟨by decide +kernel, by decide +kernel⟩, ⟨by decide +kernel, by decide +kernel⟩⟩, by decide +kernel⟩

/-- A leg that is UP with a chunk write in flight. -/
def chunkWriting : State := listening.setLeg 0 (upWith (flight .write (.chunk 0 0) .live))

/-- Leg `l` has a request of chunk 2 of the running job in flight, the chunk in a phase. -/
def chunkInFlight (l : LegIx) (kind : ReqKind) (ph : ChunkPhase) : State :=
  (rebuilding (runningAt (some 0) [{ index := 2, phase := ph, data := [] }])).setLeg l (upWith (flight kind (.chunk 0 2) .live))

theorem test_witness_chunks_in_flight :
    ((chunkInFlight 1 .write .writing).leg 1).flight 0 = some (flight .write (.chunk 0 2) .live) ∧
    ((chunkInFlight 0 .read .reading).leg 0).flight 0 = some (flight .read (.chunk 0 2) .live) ∧
    ((chunkInFlight 1 .write .writing).leg 1).state = .up := by decide +kernel

theorem test_witness_ChunkIn :
    ChunkIn (chunkInFlight 1 .write .writing) 0 2 .writing ∧ ChunkIn (chunkInFlight 0 .read .reading) 0 2 .reading ∧
    ¬ ChunkIn chunkWriting 0 0 .writing ∧ ¬ ChunkIn chunkWriting 0 0 .reading := by
  refine ⟨⟨_, rfl, rfl, _, List.mem_singleton.mpr rfl, rfl, rfl⟩, ⟨_, rfl, rfl, _, List.mem_singleton.mpr rfl, rfl, rfl⟩, ?_, ?_⟩ <;>
    exact fun ⟨j, h, _⟩ => absurd (show none = some j from h) (by simp)

theorem test_witness_WriteResponsesByCondition :
    (listening.leg 0).state ≠ .up ∧ (mirrored.leg 0).state = .up ∧ (mirrored.leg 0).flight 0 = none ∧
    (∀ c ∈ [Condition.live, .orphaned, .closing, .expired], ((writing c).leg 1).state = .up ∧
      ((writing c).leg 1).flight 0 = some (flight .write (.write 0 (some 0)) c)) ∧
    (flight .write (.write 0 (some 0)) .live).counted = false ∧ (chunkWriting.leg 0).flight 0 = some (flight .write (.chunk 0 0) .live) := by
  decide +kernel

/-- A tracked write under a policy, its owed set given. -/
def owing (p : WritePolicy) (owed : List LegIx) : State :=
  { mirrored with writes := [{ writeEntry owed [] .no with policy := some p }] }

/-- A tracked pass-through write to leg 1. -/
def passEntry : WriteEntry :=
  { writeEntry [1] [] .no with window := none, segment := none, legAddrs := [(1, 0)], policy := none }

theorem test_witness_AcknowledgementsAnswerTheWrite :
    findWrite mirrored 0 = none ∧ findWrite (owing .sync [1]) 0 = some { writeEntry [1] [] .no with policy := some .sync } ∧
    (0 : LegIx) ∉ (writeEntry [1] [] .no).owed ∧
    findWrite (owing .sync [0, 1]) 0 = some { writeEntry [0, 1] [] .no with policy := some .sync } ∧
    findWrite (owing .lagged [0, 1]) 0 = some { writeEntry [0, 1] [] .no with policy := some .lagged } ∧
    (∃ k ∈ (writeEntry [0, 1] [] .no).owed, k ≠ 1) ∧ isCurrent (owing .lagged [0, 1]) 0 1 = true ∧
    (findWrite (owing .lagged [1]) 0 = some { writeEntry [1] [] .no with policy := some .lagged } ∧
      isCurrent { exposed with writes := (owing .lagged [1]).writes } 0 1 = false ∧
      findWrite { mirrored with writes := [{ writeEntry [1] [] .no with answered := true }] } 0 =
        some { writeEntry [1] [] .no with answered := true }) ∧
    findWrite { mirrored with writes := [passEntry] } 0 = some passEntry ∧ passEntry.owed = [1] := by decide +kernel

theorem test_witness_Acknowledgements_emptied :
    findWrite (releasedWrite mirrored) 0 = some (writeEntry [] [] .released) ∧ (writeEntry [] [] .released).held ≠ .no ∧
    (∀ e ∈ [{ writeEntry [] [] .no with answered := true }, { writeEntry [] [] .no with policy := some .lagged }, writeEntry [] [1] .no,
        writeEntry [] [] .no, { passEntry with owed := [], acked := [1] }, { passEntry with owed := [] }],
      findWrite { mirrored with writes := [e] } 0 = some e ∧ e.owed = [] ∧ e.held = .no) ∧
    isCurrent mirrored 0 1 = true := by decide +kernel

theorem test_witness_ReadBeatsByCondition :
    (listening.leg 0).state ≠ .up ∧ (mirrored.leg 0).state = .up ∧ (mirrored.leg 0).flight 0 = none ∧
    (∀ c ∈ [Condition.live, .orphaned, .expired, .closing], ((reading c).leg 0).state = .up ∧
      ((reading c).leg 0).flight 0 = some (flight .read (.read 0) c)) ∧
    (flight .read (.read 0) .live).beatsExpected = some 2 ∧ (flight .read (.read 0) .live).beatsTaken + 1 < 2 ∧
    2 ≤ { flight .read (.read 0) .closing with beatsTaken := 1 }.beatsTaken + 1 ∧
    findRead (reading .live) 0 = some (readEntry [0] (some 0)) ∧ (readEntry [0] (some 0)).delivered + 1 ≠ 2 ∧
    { readEntry [0] (some 0) with delivered := 1 }.delivered + 1 = 2 ∧
    (0 ∉ upLeg.spent ∧ 0 ∈ { upLeg with spent := [0] }.spent) ∧ upLeg.failures < 4 ∧ 4 ≤ { upLeg with failures := 4 }.failures := by
  decide +kernel

theorem test_witness_EntryTimersByCondition :
    (mirrored.leg 0).flight 0 = none ∧
    (∀ c ∈ [Condition.live, .orphaned, .closing, .expired],
      ((writing c).leg 1).flight 0 = some (flight .write (.write 0 (some 0)) c) ∧ ((writing c).leg 1).state = .up ∧
      ((reading c).leg 0).flight 0 = some (flight .read (.read 0) c)) ∧
    (((writing .orphaned).setLeg 1 { upWith (flight .write (.write 0 (some 0)) .orphaned) with state := .down }).leg 1).state ≠ .up := by
  decide +kernel

/-- The pass leg is leg 1, which is UP, and no window covers anything. -/
def passing : State := { legsUp with passLeg := some 1 }

theorem test_witness_RequestsAreHeldRejectedOrFaulted :
    ({ listening with resetAsserted := true } : State).resetAsserted = true ∧
    ({ listening with link := { Link.reset with head := some (writeAt0 1) } } : State).link.head ≠ none ∧
    (listening.notice.any = false ∧ listening.resetAsserted = false ∧ listening.link.head = none ∧ listening.link.waiting = [] ∧ listening.port.progress = .none) ∧
    clearing.port.progress ≠ .none ∧ (∃ x ∈ (writing .live).link.tags, x.tag = (writeAt0 5).tag) ∧
    (∀ x ∈ (writing .live).link.tags, x.tag ≠ (writeAt0 6).tag) ∧
    (isMalformed { writeAt0 1 with length := 0 } = true ∧ isMalformed { readAt0 1 with length := 257 } = true ∧
      isMalformed { readAt0 1 with addr := 1, length := 256 } = true ∧ isMalformed { writeAt0 1 with length := 2 } = true ∧
      isMalformed { readAt0 1 with length := 256 } = false) ∧
    (lookupWindow (withMembers .draining none none false) 0 = some 0 ∧ lookupWindow lost 65535 = some 0 ∧ isLost (lost.win 0) = true ∧
      lookupWindow lost 65536 = none ∧ listening.passLeg = none ∧ passing.passLeg = some 1 ∧
      ({ passing with passLeg := some 2 }.leg 2).state ≠ .up) := by decide +kernel

/-- A write waiting in a lag queue. -/
def lagWrite : LegRequest := { kind := .write, addr := 0, length := 1, data := [], owner := .write 0 (some 0), age := 0 }

/-- The mirrored window under LAGGED. -/
def lagged : State := mirrored.setWin 0 { mirrored.win 0 with writePolicy := .lagged }

/-- 32 tracked writes that no leg is owed. -/
def writesFull : List WriteEntry := List.replicate 32 (writeEntry [] [0] .no)

theorem test_witness_StalledHeadsWaitAndAreRetried :
    (tagInUse mirrored 5 = false ∧ isMalformed (writeAt0 5) = false ∧ lookupWindow mirrored 0 = some 0 ∧
      (mirrored.win 0).state = .enabled ∧ isLost (mirrored.win 0) = false) ∧
    writeStall { mirrored with writes := writesFull } 0 0 = some .trackerFull ∧
    24 ≤ (List.replicate 24 (readEntry [] none)).length ∧
    (closedFor (rebuilding { runningAt (some 0) [] with pass := some 4 }) 0 0 = true ∧
      writeStall { rebuilding { runningAt (some 0) [] with pass := some 4 } with hold := List.replicate 8 0 } 0 0 = some .holdFull ∧
      writeStall (rebuilding { runningAt (some 0) [] with pass := some 4 }) 0 0 = none) ∧
    (releasedWaits (releasedWrite mirrored) 0 0 = true ∧ closedFor mirrored 0 0 = false ∧ releasedWaits mirrored 0 0 = false) ∧
    (writeStall (mirrored.setLeg 1 LegPort.reset) 0 0 = some .directFull ∧ writeStall mirrored 0 0 = none) ∧
    (leadOf (lagged.win 0) = some (member 0 (some .current) false) ∧ writeStall lagged 0 0 = none ∧
      writeStall (lagged.setLeg 0 LegPort.reset) 0 0 = some .directFull ∧ writeStall (lagged.setLeg 1 LegPort.reset) 0 0 = some .lagFull ∧
      writeStall (lagged.setLeg 1 { upLeg with lag := List.replicate 64 lagWrite }) 0 0 = some .lagFull) ∧
    mirrored.link.accept ≠ .stalled := by decide +kernel

/-- The LAGGED window under DEMOTE, leg 1's lag queue full. -/
def lagOverflowing : State :=
  (lagged.setWin 0 { lagged.win 0 with lagPolicy := .demote }).setLeg 1 { upLeg with lag := List.replicate 64 lagWrite }

theorem test_lag_overflow_demotes : slotState (lagOverflow 0 .lagged lagOverflowing) 0 1 = some .stale := by decide +kernel

theorem test_issue_owes_exactly_the_takers : after (exec (.request (writeAt0 5)) lagged) (fun t => (t.writes.map (·.owed),
    (t.leg 0).direct.length, (t.leg 1).lag.length, (t.leg 1).direct.length)) = some ([[0, 1]], 1, 1, 0) := by decide +kernel

theorem test_pass_through_write : after (exec (.request (writeAt0 5)) passing) (fun t => (t.writes.map (·.owed), (t.leg 1).direct.length)) =
    some ([[1]], 1) := by decide +kernel

theorem test_witness_AcceptedWrites_open_and_pass :
    closedFor mirrored 0 0 = false ∧ copyingSegment mirrored 0 0 = false ∧ (runningAt (some 0) []).segment = some 0 ∧
    Notice.quiet.release = false ∧ Notice.full.release = true ∧ (lagged.win 0).lagPolicy = .stall ∧
    (lagOverflowing.win 0).lagPolicy = .demote ∧
    ((writeEntry [] [] .no).owed = [] ∧ ((mirrored.win 0).members.map (·.leg)).Nodup ∧
      ∀ m ∈ (mirrored.win 0).members, (addrOn (writeEntry [] [] .no).legAddrs m.leg).isSome = true ∧ canEnter mirrored m.leg .direct = true) ∧
    (passing.notice.any = false ∧ passing.resetAsserted = false ∧ passing.link.head = none ∧ passing.link.waiting = [] ∧
      passing.port.progress = .none ∧ tagInUse passing 5 = false ∧ lookupWindow passing 0 = none ∧ (passing.leg 1).state = .up ∧
      passing.writes.length < 32 ∧ (passing.leg 1).direct.length < 16 ∧ passing.reads.length < 24) ∧
    writesFull.length = 32 ∧ (List.replicate 16 lagWrite).length = 16 := by decide +kernel

theorem test_witness_AcceptedWritesAreTrackedAndPlaced :
    writeStall mirrored 0 (((writeAt0 5).addr.toNat - (mirrored.win 0).base) / 65536) = none ∧
    (∀ e ∈ (writing .live).writes, e.ref < (writing .live).nextRef) ∧
    closedFor (rebuilding { runningAt (some 0) [] with pass := some 4 }) 0 0 = true ∧
    (findWrite (owing .sync []) 0 = some { writeEntry [] [] .no with policy := some .sync } ∧
      addrOn (writeEntry [] [] .no).legAddrs 1 = some 0 ∧ canEnter (owing .sync []) 1 .direct = true ∧
      ((owing .sync []).leg 1).direct = [] ∧ ((owing .sync []).leg 1).copy = []) ∧
    member 1 (some .current) false ∈ ((owing .sync []).win 0).members := by decide +kernel

/-- Leg 0 has the request of a read in its direct queue, and those of chunks 0 and 1 of the running job in its copy channel. -/
def withReads : State :=
  let r (a n : Nat) (o : Owner) : LegRequest := { kind := .read, addr := a, length := n, data := [], owner := o, age := 0 }
  { (rebuilding (runningAt (some 0) [newChunk 0, newChunk 1])).setLeg 0
      { upLeg with direct := [r 0 17 (.read 0)], copy := [r 0 256 (.chunk 0 0), r 256 256 (.chunk 0 1)] } with
    reads := [readEntry [0, 1] (some 0)] }

/-- A write at 300 withdraws chunk 1; one at 0 withdraws the read and both chunks; one at 1000 nothing. -/
theorem test_witness_withdrawals :
    (withdrawReads 0 0 1 withReads).reads.map (fun e => (e.tried, e.current)) = [([1], none)] ∧ withdrawReads 0 1000 1 withReads = withReads ∧
    (withdrawChunks 0 300 1 withReads).jobs.map (fun j => (j.nextChunk, j.chunks)) = [(1, [newChunk 0])] ∧
    (withdrawChunks 0 0 1 withReads).jobs.map (fun j => (j.nextChunk, j.chunks)) = [(0, [])] ∧
    withdrawChunks 0 1000 1 withReads = withReads ∧ canEnter withReads 0 .direct = true := by decide +kernel

theorem test_witness_ReadsAreSteeredByTheTable :
    (isMalformed (readAt0 5) = false ∧ mirrored.reads.length < 24) ∧ (∀ e ∈ (reading .live).reads, e.current ≠ none) ∧
    (∀ s ∈ [mirrored, lost], findRead { s with reads := [readEntry [0] none] } 0 = some (readEntry [0] none)) ∧
    ((lost.win 0).state ≠ .disabled ∧ (∀ m ∈ (lost.win 0).members, m.state ≠ some .current)) ∧
    eligible mirrored (readEntry [0] none) (member 1 (some .current) false) = true ∧
    (∀ m ∈ (mirrored.win 0).members, eligible (mirrored.setLeg 1 LegPort.reset) (readEntry [0] none) m = false) ∧
    (∀ m ∈ (mirrored.win 0).members, m.leg ∈ (readEntry [0, 1] none).tried) := by decide +kernel

/-- Two copies, a read policy, the rotate pointer at the second, leg 0 with an entry in flight. -/
def steering (p : ReadPolicy) : State :=
  (mirrored.setWin 0 { mirrored.win 0 with readPolicy := p, rotate := 1 }).setLeg 0 (upWith (flight .read (.read 9) .live))

theorem test_read_policies :
    [ReadPolicy.ordered, .shortest, .rotate].map (fun p => after (exec (.request (readAt0 5)) (steering p)) fun t =>
      (t.reads.map (·.current), (t.win 0).rotate)) = [some ([some 0], 1), some ([some 1], 1), some ([some 1], 0)] := by decide +kernel

theorem test_witness_Steering_pass_and_placing :
    (let e := { readEntry [] none with window := none, legAddrs := [(1, 0)] }
     findRead { passing with reads := [e] } 0 = some e ∧ e.current = none ∧ canServe { passing with reads := [e] } e 1 = true ∧
      (passing.leg 1).state = .up ∧ canServe passing { e with tried := [1] } 1 = false) ∧
    (addrOn (readEntry [0] none).legAddrs 1 = some 0 ∧ canEnter mirrored 1 .direct = true ∧ (readEntry [0] none).failedOn = none ∧
      { readEntry [0] none with failedOn := some 0 }.failedOn = some 0) ∧
    ((steering .rotate).win 0).members.findIdx? (fun k => k.leg == 1) = some 1 ∧ ((steering .rotate).win 0).readPolicy = .rotate ∧
    ((steering .ordered).win 0).readPolicy ≠ .rotate := by decide +kernel

theorem test_witness_TakenAnswersCountTagsDown :
    mirrored.link.answers = [] ∧
    ({ listening with link := { Link.reset with answers := [.write 5 .okay] } } : State).link.answers = [.write 5 .okay] := by decide +kernel

theorem test_witness_ReleasedWritesLeaveTheHoldQueue :
    mirrored.hold = [] ∧
    (∀ s ∈ [mirrored, lost], (releasedWrite s).hold = [0] ∧ findWrite (releasedWrite s) 0 = some (writeEntry [] [] .released) ∧
      closedFor (releasedWrite s) 0 0 = false) ∧
    (leadOf ((releasedWrite mirrored).win 0)).isSome = true ∧
    queueStall (releasedWrite mirrored) ((releasedWrite mirrored).win 0) .sync = none ∧
    (queueStall ((releasedWrite mirrored).setLeg 1 LegPort.reset) ((releasedWrite mirrored).win 0) .sync).isSome = true ∧
    leadOf ((releasedWrite lost).win 0) = none ∧ copyingSegment (releasedWrite mirrored) 0 0 = false ∧
    nextReleased (releasedWrite mirrored) = some 0 ∧ nextReleased mirrored = none ∧
    closedFor (releasedWrite (rebuilding { runningAt (some 0) [] with pass := some 4 })) 0 0 = true := by decide +kernel

/-- Two released writes leave the hold queue in one resumption (R56). -/
theorem test_release_of_two : after (exec .releaseResume { mirrored with
    writes := [writeEntry [] [] .released, { writeEntry [] [] .released with ref := 1, tag := 6 }], hold := [0, 1], nextRef := 2 })
    (fun t => (t.hold, t.writes.map (·.owed))) = some ([], [[0, 1], [0, 1]]) := by decide +kernel

/-- A member removed and added again at another base: a released write goes to the new address, an older read has none there. -/
theorem test_readded_member_has_no_old_address :
    let s := removeMember 0 1 { releasedWrite mirrored with reads := [readEntry [0, 1] (some 0)] }
    let t := s.setWin 0 { s.win 0 with members := (s.win 0).members ++ [{ member 1 (some .current) false with base := 65536 }] }
    (t.reads.map fun e => e.rangeOn 1) = [none] ∧
    ((resumeRelease t).leg 1).direct.map (·.addr) = [65536] := by decide +kernel

/-- A queued job for slot (0, 1). -/
def waitingJob (s : State) : State := { s with jobs := [queuedJob], nextJob := 1 }

theorem test_witness_HeadJobsStartOrAreRemoved :
    mirrored.jobs = [] ∧ (runningJob (rebuilding (runningAt none []))).isSome = true ∧ clearing.port.progress ≠ .none ∧
    queuedJob.running = false ∧ (waitingJob exposed).port.progress = .none ∧
    (startCheck (waitingJob ((exposed.setLeg 1 LegPort.reset))) queuedJob = some .targetDown ∧
      startCheck (waitingJob mirrored) queuedJob = some .state ∧ startCheck (waitingJob lost) queuedJob = some .noSource ∧
      startCheck (waitingJob (stale 7 true (16 * 65536) [])) queuedJob = some .capacity ∧
      startCheck (waitingJob exposed) queuedJob = none) ∧
    (((waitingJob exposed).win 0).members.map (·.leg)).Nodup ∧ isWhole (waitingJob exposed) 0 1 = true ∧
    leadOf ((waitingJob exposed).win 0) = some (member 0 (some .current) false) := by decide +kernel

theorem test_witness_HeadJobs_stale_mode :
    (∀ s ∈ [waitingJob (stale 7 false 0 [{ window := 0, leg := 1, segment := 0 }]), waitingJob (stale 7 false 0 [])],
      startCheck s queuedJob = none ∧ isWhole s 0 1 = false ∧ queuedJob.mode ≠ .full ∧ (leadOf (s.win 0)).isSome = true) ∧
    staleList (stale 7 false 0 [{ window := 0, leg := 1, segment := 0 }]) 0 1 = [0] ∧ staleList (stale 7 false 0 []) 0 1 = [] ∧
    (runningJob (startJob queuedJob (waitingJob exposed))).isSome = true ∧
    (startJob queuedJob (waitingJob (stale 7 false 0 []))).jobs = [] := by decide +kernel

/-- Three chunks in process. -/
def three : List Chunk := [{ index := 0, phase := .reading, data := [] }, { index := 1, phase := .reading, data := [] },
  { index := 2, phase := .writing, data := [] }]

theorem test_witness_TheEngineTakesSourcesAndPlacesChunkReads :
    runningJob mirrored = none ∧ (runningJob (rebuilding (runningAt (some 0) []))).isSome = true ∧
    (runningJob (rebuilding (runningAt none [])) = some (runningAt none []) ∧ (runningAt none []).segment.isSome = true ∧
      leadOf ((rebuilding (runningAt none [])).win 0) = some (member 0 (some .current) false) ∧
      ((rebuilding (runningAt none [])).leg 0).state = .up ∧ (((rebuilding (runningAt none [])).setLeg 0 LegPort.reset).leg 0).state ≠ .up) ∧
    chunkReadDue (rebuilding (runningAt none [])) (runningAt none []) = none ∧
    chunkReadDue (rebuilding (runningAt (some 0) three)) (runningAt (some 0) three) = some (0, 768) ∧
    chunkReadDue (rebuilding { runningAt (some 0) [] with nextChunk := 256 }) { runningAt (some 0) [] with nextChunk := 256 } = none ∧
    three.length = 3 := by decide +kernel

theorem test_witness_Engine_segments :
    (let s := { lost with jobs := [runningAt none []] }
     runningJob s = some (runningAt none []) ∧ isLost (s.win 0) = true ∧ leadOf (s.win 0) = none) ∧
    isLost ((rebuilding (runningAt none [])).win 0) = false ∧
    (three.find? (fun k => k.index == 2) = some { index := 2, phase := .writing, data := [] } ∧
      memberOf (rebuilding (runningAt (some 0) three)) 0 1 = some (member 1 (some .rebuilding) true) ∧
      canEnter (rebuilding (runningAt (some 0) three)) 1 .copy = true) ∧
    slotState (rebuilding (runningAt (some 0) three)) 0 1 = some .rebuilding ∧
    staleList (rebuilding (runningAt (some 0) three)) 0 1 = [] := by decide +kernel

/-- The last chunk of a pass. -/
def lastChunk (p : Nat) (overtaken : Bool) : State :=
  rebuilding { runningAt (some 0) [{ index := 2, phase := .writing, data := [] }] with
    nextChunk := 256, chunksWritten := 255, pass := some p, overtaken := overtaken }

theorem test_segment_ends :
    (ackChunk 0 2 (lastChunk 1 true)).jobs.map (fun j => (j.pass, j.chunksWritten)) = [(some 2, 0)] ∧
    (ackChunk 0 2 (lastChunk 1 false)).jobs = [] ∧ slotState (ackChunk 0 2 (lastChunk 4 true)) 0 1 = some .current := by decide +kernel

theorem test_witness_ResetDoneEndsTheDatapathReset :
    mirrored.port.progress ≠ .clearing ∧ (writing .live).writes ≠ [] ∧ (writing .live).link.tags ≠ [] ∧
    (clearing.port.progress = .clearing ∧ clearing.writes = [] ∧ clearing.reads = [] ∧ clearing.link.answers = [] ∧
      clearing.link.tags = [] ∧ clearing.link.head = none ∧ clearing.link.waiting = []) := by decide +kernel

theorem test_witness_ResyncCommandsQueueCancelAndReport :
    (listening.win 0).state ≠ .enabled ∧ (∀ m ∈ (lost.win 0).members, m.state ≠ some .current) ∧
    (exposed.win 0).state = .enabled ∧ (¬ ∀ m ∈ (exposed.win 0).members, m.state ≠ some .current) ∧ memberOf exposed 0 2 = none ∧
    memberOf exposed 0 1 = some (member 1 (some .stale) true) ∧ (∃ j ∈ (waitingJob exposed).jobs, j.window = 0 ∧ j.target = 1) ∧
    (¬ ∃ j ∈ exposed.jobs, j.window = 0 ∧ j.target = 1) ∧ memberOf mirrored 0 1 = some (member 1 (some .current) false) ∧
    (List.replicate 8 { queuedJob with window := 1 }).length = 8 ∧ exposed.jobs.length < 8 ∧
    (exceedsRecord ((stale 7 true (16 * 65536) []).leg 1) (16 * 65536) 1 = true ∧ exceedsRecord (exposed.leg 1) 0 1 = false) ∧
    (waitingJob exposed).jobs.find? (fun j => j.window == 0 && j.target == 1) = some queuedJob ∧
    (rebuilding (runningAt none [])).jobs.find? (fun j => j.window == 0 && j.target == 1) = some (runningAt none []) := by
  decide +kernel

/-- The store as full as it gets: the segments 0 to 4,095 of slot (1, 0). -/
def storeFull : List StaleEntry := (List.range 4096).map fun g => { window := 1, leg := 0, segment := g }

theorem test_witness_StaleAdditionsFollowTheTable :
    memberOf exposed 0 2 = none ∧ memberOf mirrored 0 1 = some (member 1 (some .current) false) ∧
    memberOf exposed 0 1 = some (member 1 (some .stale) true) ∧
    memberOf (stale 7 false 0 []) 0 1 = some (member 1 (some .stale) false) ∧
    { window := 0, leg := 1, segment := 0 } ∈ (stale 7 false 0 [{ window := 0, leg := 1, segment := 0 }]).store ∧
    { window := 0, leg := 1, segment := 0 } ∉ (stale 7 false 0 []).store ∧ StoreLaw (stale 7 false 0 []) := by
  refine ⟨by decide +kernel, by decide +kernel, by decide +kernel, by decide +kernel, by decide +kernel, by decide +kernel, ?_⟩
  refine ⟨⟨List.Pairwise.nil, by decide⟩, fun e h => absurd h (by simp [stale]), ?_⟩
  unfold Vacant
  decide +kernel

theorem test_witness_StaleAdditions_overflow :
    storeFull.length = 4096 ∧ ({ window := 0, leg := 1, segment := 0 } : StaleEntry) ∉ storeFull := by
  refine ⟨by simp [storeFull], ?_⟩
  simp [storeFull]

/-- A full event queue. -/
def eventsFull : EventUnit :=
  { EventUnit.reset with
    queue := (List.range 32).map fun k => { seq := BitVec.ofNat 16 k, record := .resetDone }, nextSeq := 32 }

theorem test_witness_EventRecordsAreStoredAndPopped :
    { EventUnit.reset with mask := 0x0800 }.mask.getLsbD EventKind.resetDone.code = true ∧
    EventUnit.reset.mask.getLsbD EventKind.resetDone.code = false ∧ 32 ≤ eventsFull.queue.length ∧ EventUnit.reset.queue.length < 32 ∧
    listening.events.queue = [] ∧ eventsFull.queue.head? = some { seq := 0, record := .resetDone } ∧ eventsFull.drop = 0 ∧
    { eventsFull with drop := 255 }.drop ≠ 0 := by decide +kernel

theorem test_witness_EventConfigAndTheAlertLine :
    (0x0FFE : BitVec 16) &&& 0xF001 = 0 ∧ (0x0001 : BitVec 16) &&& 0xF001 ≠ 0 ∧ (0x1000 : BitVec 16) &&& 0xF001 ≠ 0 := by decide +kernel

/-- Counters at their limit. -/
def countersFull : Counters :=
  { readFailures := 65535, writeFailures := 65535, timeouts := 65535, late := 65535, stray := 65535, failovers := 65535 }

theorem test_witness_laws_of_events_counters_and_store :
    EventLaw { listening with events := { eventsFull with drop := 255 } } ∧
    CounterLaw (listening.setCounters 0 countersFull) ∧
    StoreLaw (stale 7 false 0 [{ window := 0, leg := 1, segment := 0 }]) ∧
    (nextOf (step { listening with pending := [.headRetry] })).isSome = true := by
  refine ⟨⟨by decide +kernel, by decide +kernel, ?_, by decide +kernel, by decide +kernel⟩, ?_,
    ⟨by decide +kernel, ?_, by unfold Vacant; decide +kernel⟩, by decide +kernel⟩
  · simp only [eventsFull, List.range, List.range.loop, List.map, Consecutive]
    decide +kernel
  · unfold CounterLaw
    decide +kernel
  · intro e h
    have he : e = { window := 0, leg := 1, segment := 0 } := by simpa [stale] using h
    subst he
    exact ⟨by decide, _, rfl, Or.inl rfl, rfl⟩

theorem test_witness_laws_of_tables_legs_and_link : TableLaw (writing .live) ∧ LegLaw (writing .live) ∧ LinkLaw (writing .live) := by
  refine ⟨?_, ?_, ?_⟩
  · refine ⟨by decide +kernel, by decide +kernel, by decide +kernel, by decide +kernel, by decide +kernel, by decide +kernel,
      by decide +kernel, by decide +kernel, ?_, by decide +kernel⟩
    intro j h
    exact absurd h (by simp [writing, State.setLeg, mirrored, withMembers, State.setWin, legsUp, listening, State.reset])
  · intro l
    refine ⟨?_, ?_⟩
    · unfold PortBounds; revert l; decide +kernel
    · unfold AgeOrder Aged; revert l; decide +kernel
  · unfold LinkLaw
    decide +kernel

end Sys2Proof.Tests
end

section
/-! SUPPORT. WINDOW_GET (R10): the bytes of the window record against the layout of R190, and the statement about the command. -/

namespace Sys2Proof.Machine

open Sys2Proof.Safety

/-! ## The fields of the record (R190) -/

/-- The fields of the policy byte stand in bits of their own, so that the model's sum is the union of R190. -/
theorem policyByte_eq_policyBits (x : Window) :
    policyByte x = policyBits x.writePolicy x.readPolicy x.lagPolicy x.autoRebuild := by
  unfold policyByte policyBits
  cases x.writePolicy <;> cases x.readPolicy <;> cases x.lagPolicy <;> cases x.autoRebuild <;> decide

/-- The health byte by the number of CURRENT slots; 0xFF for a DISABLED window (R20). -/
theorem healthByte_healthOf (x : Window) :
    healthByte (healthOf x) =
      if x.state = .disabled then 0xFF else if 2 ≤ currentCount x then 0 else if currentCount x = 1 then 1 else 2 := by
  simp only [healthOf, beq_iff_eq]
  split_ifs <;> rfl

/-- The lead byte is the leg of the first CURRENT slot; 0xFF for a LOST window and a DISABLED one (R21). -/
theorem legByte_leadOf (x : Window) :
    legByte ((leadOf x).map (·.leg)) = if x.state = .disabled then 0xFF
      else match x.members.filter (fun m => m.state == some .current) with
        | m :: _ => legToByte m.leg
        | [] => 0xFF := by
  simp only [leadOf, beq_iff_eq, ← List.head?_filter]
  split
  · rfl
  · cases x.members.filter (fun m => m.state == some .current) <;> rfl

/-- The state byte (R190). -/
theorem windowState_code (v : WindowState) :
    v.code = match v with | .disabled => (0 : Byte) | .enabled => 1 | .draining => 2 := by
  cases v <;> rfl

/-! ## The command (R10) -/

/-- Taking the frame in leaves the windows as they were. -/
@[simp] theorem heard_win (code q : Byte) (args : List Byte) (s : State) (w : WinIx) :
    (heard code q args s).win w = s.win w := rfl

/-- A WINDOW_GET frame that the port hears is carried out and answered. -/
theorem exec_windowGet_heard {s : State} {q : Byte} {args : List Byte} (h : Listening s) (ha : args.length ≤ 48) :
    exec (.windowGet q args) s = .next (respond q (cmdWindowGet args (heard 0x11 q args s))) :=
  congrArg Host.Outcome.next (receiveFrame_heard h (by decide) ha)

/-- A byte that names no window is refused with ARG. -/
theorem cmdWindowGet_of_winArg_none {b : Byte} (h : winArg b = none) (s : State) :
    cmdWindowGet [b] s = refuse .arg s := by
  simp only [cmdWindowGet, h]

/-- A byte that names a window is answered with its record, and the state stays. -/
theorem cmdWindowGet_winToByte (w : WinIx) (s : State) :
    cmdWindowGet [winToByte w] s = report (windowBytes w (s.win w)) s := by
  simp only [cmdWindowGet, winArg_winToByte]

/-- Settles O19: the frame is heard and answered with `windowBytes`, whose fields are those of R190. -/
theorem windowGetReturnsTheWholeRecord : Obligations.WindowGetReturnsTheWholeRecord := by
  unfold Obligations.WindowGetReturnsTheWholeRecord
  refine ⟨fun s q b h hb => ?refused, fun s q w h => ?answered⟩
  case refused =>
    rw [exec_windowGet_heard h (by simp), cmdWindowGet_of_winArg_none (winArg_eq_none hb), respond_refuse]
  case answered =>
    intro x n
    rw [exec_windowGet_heard h (by simp), cmdWindowGet_winToByte, heard_win, respond_report]
    have hhealth : healthByte (healthOf x) =
        if x.state = .disabled then 0xFF else if 2 ≤ n then 0 else if n = 1 then 1 else 2 := healthByte_healthOf x
    unfold windowBytes
    rw [policyByte_eq_policyBits, hhealth, legByte_leadOf, windowState_code]
    rfl

end Sys2Proof.Machine
end

section
/-! SUPPORT. EVENT_CONFIG and the ALERT output (R170, R171). -/

namespace Sys2Proof.Machine

open Sys2Proof.Safety

/-! ## The ALERT output (R171) -/

/-- The ALERT output is on while the enable is on and the queue holds a record. -/
theorem alertLine_iff {s : State} : alertLine s = true ↔ s.events.alertEnable = true ∧ s.events.queue ≠ [] := by
  simp [alertLine]

/-! ## Argument bytes (R170) -/

/-- The number that two bytes of a number below 2^16 carry. -/
theorem leNat_leBytes_two {n : Nat} (h : n < 2 ^ 16) : leNat (leBytes 2 n) = n := by
  simp [leBytes, leNat]; omega

@[simp] theorem enableArg_boolByte (on : Bool) : enableArg (boolByte on) = some on := by cases on <;> decide

/-- A mask's two bytes are taken back as the mask if it names kinds 1 to 11 only, and as none otherwise. -/
theorem maskArg_of_leBytes {m : BitVec 16} {lo hi : Byte} (h : leBytes 2 m.toNat = [lo, hi]) :
    maskArg lo hi = if m &&& 0xF001 = 0 then some m else none := by
  have hm : BitVec.ofNat 16 (leNat [lo, hi]) = m := by
    rw [← h, leNat_leBytes_two m.isLt, BitVec.ofNat_toNat, BitVec.setWidth_eq]
  simp only [maskArg, hm, beq_iff_eq]

/-! ## The command (R170) -/

/-- An EVENT_CONFIG frame that the port hears is carried out and answered. -/
theorem exec_eventConfig_heard {s : State} {q : Byte} {args : List Byte} (h : Listening s) (ha : args.length ≤ 48) :
    exec (.eventConfig q args) s = .next (respond q (cmdEventConfig args (heard 0x61 q args s))) :=
  congrArg Host.Outcome.next (receiveFrame_heard h (by decide) ha)

/-- What EVENT_CONFIG does with an enable byte and the two bytes of a mask: a mask of kinds 1 to 11 is set, with the enable, and both
are returned; any other is refused. -/
theorem cmdEventConfig_boolByte_leBytes (on : Bool) (m : BitVec 16) (s : State) :
    cmdEventConfig (boolByte on :: leBytes 2 m.toNat) s =
      if m &&& 0xF001 = 0 then
        { state := { s with events := { s.events with alertEnable := on, mask := m } }, status := .done,
          results := boolByte on :: leBytes 2 m.toNat }
      else refuse .arg s := by
  obtain ⟨lo, hi, hb⟩ : ∃ lo hi, leBytes 2 m.toNat = [lo, hi] := ⟨_, _, rfl⟩
  rw [hb]
  simp only [cmdEventConfig, enableArg_boolByte, maskArg_of_leBytes hb]
  by_cases hm : m &&& 0xF001 = 0
  · simp only [if_pos hm, hb]
  · simp only [if_neg hm]

/-- Settles O54: the frame is heard, and the mask test of `cmdEventConfig_boolByte_leBytes` decides between its two answers. -/
theorem eventConfigAndTheAlertLine : Obligations.EventConfigAndTheAlertLine := by
  unfold Obligations.EventConfigAndTheAlertLine
  refine ⟨fun s => alertLine_iff, fun s q on m h => ?command⟩
  case command =>
    intro args H
    have hrun : exec (.eventConfig q args) s = .next (respond q (cmdEventConfig (boolByte on :: leBytes 2 m.toNat) H)) :=
      exec_eventConfig_heard h (by simp [args, leBytes])
    rw [cmdEventConfig_boolByte_leBytes] at hrun
    refine ⟨fun hm => ?replaced, fun hm => ?refused⟩
    case replaced => rw [hrun, if_pos hm]; rfl
    case refused => rw [hrun, if_neg hm, respond_refuse]

end Sys2Proof.Machine
end

section
/-! SUPPORT. HEALTH_READ and the health counters (R173, R174). -/

namespace Sys2Proof.Machine

open Sys2Proof.Safety

/-- Taking the frame in leaves the counters as they were. -/
@[simp] theorem heard_counters (code q : Byte) (args : List Byte) (s : State) (l : LegIx) :
    (heard code q args s).counters l = s.counters l := rfl

/-- A HEALTH_READ frame that the port hears is carried out and answered. -/
theorem exec_healthRead_heard {s : State} {q : Byte} {args : List Byte} (h : Listening s) (ha : args.length ≤ 48) :
    exec (.healthRead q args) s = .next (respond q (cmdHealthRead args (heard 0x62 q args s))) :=
  congrArg Host.Outcome.next (receiveFrame_heard h (by decide) ha)

/-- A byte that names no leg is refused with ARG. -/
theorem cmdHealthRead_of_legArg_none {b : Byte} (h : legArg b = none) (s : State) :
    cmdHealthRead [b] s = refuse .arg s := by
  simp only [cmdHealthRead, h]

/-- A byte that names a leg is answered with its counters, which are set to zero. -/
theorem cmdHealthRead_legToByte (l : LegIx) (s : State) :
    cmdHealthRead [legToByte l] s =
      { state := s.setCounters l Counters.zero, status := .done, results := counterBytes (s.counters l) } := by
  simp only [cmdHealthRead, legArg_legToByte]

/-- Settles O55: the frame is heard and answered by `cmdHealthRead`; a count is `Counters.bump`, one equation per counter. -/
theorem healthCountersCountAndAreReadOnce : Obligations.HealthCountersCountAndAreReadOnce := by
  unfold Obligations.HealthCountersCountAndAreReadOnce
  refine ⟨fun s q b h hb => ?refused, fun s q l h => ?answered, fun s l k => ?counted, fun c => ?bumped⟩
  case refused =>
    rw [exec_healthRead_heard h (by simp), cmdHealthRead_of_legArg_none (legArg_eq_none hb), respond_refuse]
  case answered =>
    intro c
    rw [exec_healthRead_heard h (by simp), cmdHealthRead_legToByte, heard_counters]
    rfl
  case counted => rfl
  case bumped => exact ⟨rfl, rfl, rfl, rfl, rfl, rfl⟩

end Sys2Proof.Machine
end

section
/-! SUPPORT. The device commands IDENT and STATUS_GET (R183, R184): the bytes that the model returns against the values of the rules. -/

namespace Sys2Proof.Machine

open Sys2Proof.Safety

/-! ## IDENT (R183) -/

/-- The nine bytes of IDENT: vendor code and part code least significant byte first (R189), the revision, and the four counts. -/
theorem identBytes_eq : identBytes = [0x4C, 0x5A, 0x04, 0x24, 0x01, 0x04, 0x10, 0x20, 0x18] := by decide

/-- An IDENT frame that the port hears is carried out and answered. -/
theorem exec_ident_heard {s : State} {q : Byte} {args : List Byte} (h : Listening s) (ha : args.length ≤ 48) :
    exec (.ident q args) s = .next (respond q (cmdIdent args (heard 0x01 q args s))) :=
  congrArg Host.Outcome.next (receiveFrame_heard h (by decide) ha)

/-- IDENT without arguments returns its fixed bytes, and the state stays. -/
theorem cmdIdent_nil (s : State) : cmdIdent [] s = report identBytes s := rfl

/-- Settles O14: the frame is heard and answered with `identBytes`, whose values are those of R183. -/
theorem identReturnsTheFixedValues : Obligations.IdentReturnsTheFixedValues := by
  unfold Obligations.IdentReturnsTheFixedValues
  intro s q h
  rw [exec_ident_heard h (by simp), cmdIdent_nil, respond_report, identBytes_eq]

/-! ## The values of STATUS_GET (R184) -/

/-- The acceptance state byte (R184). -/
theorem acceptState_code (a : AcceptState) :
    a.code = match a with | .opened => (0 : Byte) | .stalled => 1 | .resetting => 2 := by
  cases a <;> rfl

/-- The stall cause byte (R184). -/
theorem stallCause_code (c : StallCause) :
    c.code = match c with
      | .none => (0 : Byte)
      | .tagBusy => 1
      | .trackerFull => 2
      | .readTrackerFull => 3
      | .holdFull => 4
      | .directFull => 5
      | .lagFull => 6
      | .resetting => 7 := by
  cases c <;> rfl

/-- The engine is IDLE unless the first job is running; then it is COPYING if the job has a source, and in SOURCE_WAIT if not
(R100). -/
theorem engineState_code (s : State) :
    (engineState s).code = match s.jobs with
      | [] => (0 : Byte)
      | j :: _ => if j.running then (if j.source.isSome then 1 else 2) else 0 := by
  unfold engineState runningJob
  cases s.jobs with
  | nil => rfl
  | cons j js =>
    by_cases hrun : j.running = true
    · simp only [if_pos hrun]
      by_cases hsource : j.source.isSome = true
      · simp only [if_pos hsource, EngineState.code]
      · simp only [if_neg hsource, EngineState.code]
    · simp only [if_neg hrun, EngineState.code]

/-- The reset progress byte (R184). -/
theorem resetProgress_code (p : ResetProgress) :
    p.code = match p with | .none => (0 : Byte) | .answering => 1 | .clearing => 2 := by
  cases p <;> rfl

/-- The pass-through byte: the leg, or 0xFF for NONE (R7). -/
theorem legByte_eq (l : Option LegIx) : legByte l = match l with | some l => legToByte l | none => 0xFF := by
  cases l <;> rfl

/-- The model's status bytes are the values of R184, field by field. -/
theorem statusBytes_eq_statusValues (s : State) : statusBytes s = statusValues s := by
  unfold statusBytes
  rw [acceptState_code, stallCause_code, engineState_code, resetProgress_code, legByte_eq]
  rfl

@[simp] theorem length_leBytes (n v : Nat) : (leBytes n v).length = n := by
  induction n generalizing v with
  | zero => rfl
  | succ n ih => exact congrArg (· + 1) (ih (v / 256))

/-- The result length of STATUS_GET: thirteen values of one byte and three of two (R184). -/
theorem length_statusValues (s : State) : (statusValues s).length = 19 := by
  simp [statusValues]

/-! ## STATUS_GET (R184) -/

/-- Taking the frame in moves none of the values of R184. -/
@[simp] theorem heard_statusBytes (code q : Byte) (args : List Byte) (s : State) :
    statusBytes (heard code q args s) = statusBytes s := rfl

/-- A STATUS_GET frame that the port hears is carried out and answered. -/
theorem exec_statusGet_heard {s : State} {q : Byte} {args : List Byte} (h : Listening s) (ha : args.length ≤ 48) :
    exec (.statusGet q args) s = .next (respond q (cmdStatusGet args (heard 0x02 q args s))) :=
  congrArg Host.Outcome.next (receiveFrame_heard h (by decide) ha)

/-- STATUS_GET without arguments returns the status bytes of the state it is carried out in, and the state stays. -/
theorem cmdStatusGet_nil (s : State) : cmdStatusGet [] s = report (statusBytes s) s := rfl

/-- Settles O15: the frame is heard and answered with `statusBytes`, which are the nineteen values of R184. -/
theorem statusGetReturnsTheValuesAsTheyStand : Obligations.StatusGetReturnsTheValuesAsTheyStand := by
  unfold Obligations.StatusGetReturnsTheValuesAsTheyStand
  refine fun s q h => ⟨length_statusValues s, ?answered⟩
  case answered =>
    rw [exec_statusGet_heard h (by simp), cmdStatusGet_nil, heard_statusBytes, respond_report, statusBytes_eq_statusValues]

end Sys2Proof.Machine
end

section
/-! SUPPORT. The event unit's law (R165 to R168): what a move can do to the event unit, and that each of these keeps the law. -/

namespace Sys2Proof.Machine

open Sys2Proof.Safety

/-- `EventLaw` as a property of the event unit alone. -/
def EventUnit.Lawful (e : EventUnit) : Prop :=
  e.queue.length ≤ 32 ∧ e.drop ≤ 255 ∧ Consecutive e.queue e.nextSeq ∧ e.mask &&& 0xF001 = 0 ∧ (e.drop ≠ 0 → e.queue.length = 32)

theorem eventLaw_iff {s : State} : EventLaw s ↔ s.events.Lawful := Iff.rfl

/-! ## Consecutive numbers (R166) -/

theorem consecutive_push (q : List StoredEvent) {n : BitVec 16} (h : Consecutive q n) (r : EventRec) :
    Consecutive (q ++ [{ seq := n, record := r }]) (n + 1) := by
  induction q with
  | nil => rfl
  | cons e q ih =>
    cases q with
    | nil => exact ⟨h, rfl⟩
    | cons f q => exact ⟨h.1, ih h.2⟩

theorem consecutive_tail (q : List StoredEvent) {n : BitVec 16} (h : Consecutive q n) : Consecutive q.tail n := by
  cases q with
  | nil => exact h
  | cons e q =>
    cases q with
    | nil => exact trivial
    | cons f q => exact h.2

/-! ## The unit's operations keep the law -/

theorem EventUnit.lawful_reset : EventUnit.reset.Lawful := by
  refine ⟨?_, ?_, trivial, ?_, ?_⟩ <;> decide

theorem EventUnit.Lawful.push {e : EventUnit} (h : e.Lawful) (hl : e.queue.length < 32) (hd : e.drop = 0) (r : EventRec) :
    (e.push r).Lawful := by
  obtain ⟨-, hdrop, hseq, hmask, -⟩ := h
  refine ⟨?_, hdrop, consecutive_push _ hseq r, hmask, fun hn => absurd hd hn⟩
  simp only [EventUnit.push, List.length_append, List.length_singleton]
  omega

theorem EventUnit.Lawful.offer {e : EventUnit} (h : e.Lawful) (r : EventRec) : (e.offer r).Lawful := by
  obtain ⟨hlen, hdrop, hseq, hmask, hfull⟩ := id h
  unfold EventUnit.offer
  split_ifs with hmasked hroom
  · exact h
  · have hroom : e.queue.length < 32 := hroom
    exact h.push hroom (by by_contra hne; have := hfull hne; omega) r
  · refine ⟨hlen, by simp [Config.maxDrop], hseq, hmask, fun _ => ?_⟩
    have hroom : ¬ e.queue.length < 32 := hroom
    show e.queue.length = 32
    omega

theorem EventUnit.Lawful.pop {e : EventUnit} (h : e.Lawful) : e.pop.Lawful := by
  obtain ⟨hlen, hdrop, hseq, hmask, hfull⟩ := h
  have htail : ({ e with queue := e.queue.tail, drop := 0 } : EventUnit).Lawful :=
    ⟨by simp only [List.length_tail]; omega, by simp, consecutive_tail _ hseq, hmask, fun hn => absurd rfl hn⟩
  unfold EventUnit.pop
  split_ifs with hz
  · have hz : e.drop = 0 := by simpa using hz
    exact hz ▸ htail
  · exact htail.push (by simp only [List.length_tail]; omega) rfl _

theorem EventUnit.Lawful.config {e : EventUnit} (h : e.Lawful) (en : Bool) {m : BitVec 16} (hm : m &&& 0xF001 = 0) :
    ({ e with alertEnable := en, mask := m } : EventUnit).Lawful := by
  obtain ⟨hlen, hdrop, hseq, -, hfull⟩ := h
  exact ⟨hlen, hdrop, hseq, hm, hfull⟩

/-! ## Moves -/

/-- What a move can do to the event unit: offer a record, pop one, replace enable and mask by legal ones, or reset it. -/
theorem Move.events_cases {s t : State} (m : Move s t) :
    t.events = s.events ∨ (∃ r, t.events = s.events.offer r) ∨ t.events = s.events.pop ∨
      (∃ en k, k &&& 0xF001 = 0 ∧ t.events = { s.events with alertEnable := en, mask := k }) ∨ t.events = EventUnit.reset := by
  cases m with
  | post r => exact .inr (.inl ⟨r, rfl⟩)
  | pop => exact .inr (.inr (.inl rfl))
  | config en k hk => exact .inr (.inr (.inr (.inl ⟨en, k, hk, rfl⟩)))
  | cold => exact .inr (.inr (.inr (.inr rfl)))
  | _ => exact .inl rfl

theorem Move.keeps_eventLaw {s t : State} (m : Move s t) (h : EventLaw s) : EventLaw t := by
  rw [eventLaw_iff] at h ⊢
  obtain hkeep | ⟨r, hoffer⟩ | hpop | ⟨en, k, hk, hconfig⟩ | hreset := m.events_cases
  · exact hkeep ▸ h
  · exact hoffer ▸ h.offer r
  · exact hpop ▸ h.pop
  · exact hconfig ▸ h.config en hk
  · exact hreset ▸ EventUnit.lawful_reset

/-- A law that every move keeps, and that does not speak of the queue of commands, is kept by every step. -/
theorem step_keeps {P : State → Prop} (hmove : ∀ s t, Move s t → P s → P t)
    (hpending : ∀ s : State, P s → P { s with pending := s.pending.tail }) {s t : State} (hs : P s) (h : step s = .next t) : P t :=
  (step_moves h).keep hmove (hpending s hs)

/-- Settles O56: a step is a sequence of moves (`step_moves`), and each move keeps the law. -/
theorem everyStepKeepsTheEventLaw : Obligations.EveryStepKeepsTheEventLaw :=
  fun _ _ hs h => step_keeps (fun _ _ m => m.keeps_eventLaw) (fun _ hs => hs) hs h

end Sys2Proof.Machine
end

section
/-! SUPPORT. The laws of the health counters (R173) and of the stale segment store (R87), kept by every move. -/

namespace Sys2Proof.Machine

open Sys2Proof.Safety

/-! ## Health counters (R173) -/

/-- Every counter of a leg lies within 0 to 65,535. -/
def Counters.Lawful (c : Counters) : Prop :=
  c.readFailures ≤ 65535 ∧ c.writeFailures ≤ 65535 ∧ c.timeouts ≤ 65535 ∧ c.late ≤ 65535 ∧ c.stray ≤ 65535 ∧ c.failovers ≤ 65535

theorem counterLaw_iff {s : State} : CounterLaw s ↔ ∀ l, (s.counters l).Lawful := Iff.rfl

theorem Counters.lawful_zero : Counters.zero.Lawful := by
  refine ⟨?_, ?_, ?_, ?_, ?_, ?_⟩ <;> decide

theorem satSucc_le (n : Nat) : satSucc n ≤ 65535 := Nat.min_le_left _ _

theorem Counters.Lawful.bump {c : Counters} (h : c.Lawful) (k : Counter) : (c.bump k).Lawful := by
  obtain ⟨hr, hw, ht, hl, hs, hf⟩ := h
  cases k with
  | readFailures => exact ⟨satSucc_le _, hw, ht, hl, hs, hf⟩
  | writeFailures => exact ⟨hr, satSucc_le _, ht, hl, hs, hf⟩
  | timeouts => exact ⟨hr, hw, satSucc_le _, hl, hs, hf⟩
  | late => exact ⟨hr, hw, ht, satSucc_le _, hs, hf⟩
  | stray => exact ⟨hr, hw, ht, hl, satSucc_le _, hf⟩
  | failovers => exact ⟨hr, hw, ht, hl, hs, satSucc_le _⟩

theorem replicate_counters (l : LegIx) : (Vector.replicate 4 Counters.zero)[l] = Counters.zero := by
  simp

/-- What a move can do to a leg's counters: raise one of them, or set them to zero. -/
theorem Move.counters_cases {s t : State} (m : Move s t) (l : LegIx) :
    t.counters l = s.counters l ∨ (∃ k, t.counters l = (s.counters l).bump k) ∨ t.counters l = Counters.zero := by
  cases m with
  | count k c =>
    by_cases hk : k = l
    · subst hk; exact .inr (.inl ⟨c, by simp⟩)
    · exact .inl (setCounters_counters_of_ne _ _ hk)
  | clearCounters k =>
    by_cases hk : k = l
    · subst hk; exact .inr (.inr (by simp))
    · exact .inl (setCounters_counters_of_ne _ _ hk)
  | cold => exact .inr (.inr (replicate_counters l))
  | _ => exact .inl rfl

theorem Move.keeps_counterLaw {s t : State} (m : Move s t) (h : CounterLaw s) : CounterLaw t := by
  rw [counterLaw_iff] at h ⊢
  intro l
  obtain hkeep | ⟨k, hbump⟩ | hzero := m.counters_cases l
  · exact hkeep ▸ h l
  · exact hbump ▸ (h l).bump k
  · exact hzero ▸ Counters.lawful_zero

/-! ## The order of the store (R87) -/

theorem StaleEntry.before_iff {a b : StaleEntry} :
    a.before b = true ↔ a.window.val < b.window.val ∨ (a.window.val = b.window.val ∧
      (a.leg.val < b.leg.val ∨ (a.leg.val = b.leg.val ∧ a.segment < b.segment))) := by
  simp [StaleEntry.before, Fin.ext_iff]

theorem StaleEntry.before_trans {a b c : StaleEntry} (h : a.before b = true) (k : b.before c = true) : a.before c = true := by
  rw [before_iff] at *; omega

/-- Two different triples stand one before the other. -/
theorem StaleEntry.before_of_not {a b : StaleEntry} (h : ¬ a.before b = true) (hne : a ≠ b) : b.before a = true := by
  rw [before_iff] at *
  by_contra hb
  refine hne ?_
  obtain ⟨aw, al, ag⟩ := a
  obtain ⟨bw, bl, bg⟩ := b
  simp only [StaleEntry.mk.injEq, Fin.ext_iff] at *
  omega

theorem mem_storeInsert {e x : StaleEntry} {st : List StaleEntry} : x ∈ storeInsert e st ↔ x = e ∨ x ∈ st := by
  induction st with
  | nil => simp [storeInsert]
  | cons y ys ih =>
    unfold storeInsert
    split_ifs with hb he
    · simp
    · have he : e = y := by simpa using he
      subst he; simp
    · simp only [List.mem_cons, ih]; tauto

theorem pairwise_storeInsert (e : StaleEntry) {st : List StaleEntry} (h : st.Pairwise fun a b => a.before b = true) :
    (storeInsert e st).Pairwise fun a b => a.before b = true := by
  induction st with
  | nil => simp [storeInsert]
  | cons y ys ih =>
    obtain ⟨hy, hys⟩ := List.pairwise_cons.mp h
    unfold storeInsert
    split_ifs with hb he
    · refine List.pairwise_cons.mpr ⟨fun x hx => ?_, h⟩
      rcases List.mem_cons.mp hx with rfl | hx
      · exact hb
      · exact StaleEntry.before_trans hb (hy x hx)
    · exact h
    · refine List.pairwise_cons.mpr ⟨fun x hx => ?_, ih hys⟩
      rcases mem_storeInsert.mp hx with rfl | hx
      · exact StaleEntry.before_of_not hb (by simpa using he)
      · exact hy x hx

theorem length_storeInsert_le (e : StaleEntry) (st : List StaleEntry) : (storeInsert e st).length ≤ st.length + 1 := by
  induction st with
  | nil => simp [storeInsert]
  | cons y ys ih =>
    unfold storeInsert
    split_ifs <;> simp only [List.length_cons] <;> omega

theorem storeWf_insert {e : StaleEntry} {st : List StaleEntry} (h : Store.wf st) (hl : st.length < Config.storeSize) :
    Store.wf (storeInsert e st) :=
  ⟨pairwise_storeInsert e h.1, (length_storeInsert_le e st).trans hl⟩

theorem storeWf_filter {st : List StaleEntry} (h : Store.wf st) (p : StaleEntry → Bool) : Store.wf (st.filter p) :=
  ⟨h.1.filter p, (List.length_filter_le _ _).trans h.2⟩

/-! ## The law of the store -/

/-- In a window whose DISABLED slots have no state, a slot that may have entries shows that the window is not DISABLED. -/
theorem active_of_mayList {x : Window} {l : LegIx} (hv : Vacant x) (h : MayList x l) : x.state ≠ .disabled := by
  obtain ⟨m, hm, hst, -⟩ := h
  intro hd
  have := hv hd m (List.mem_of_find?_eq_some hm)
  simp [this] at hst

/-- The law as three parts: the store's form, its entries' slots, and the slots of DISABLED windows. -/
theorem storeLaw_iff {s : State} :
    StoreLaw s ↔ Store.wf s.store ∧ (∀ e ∈ s.store, MayList (s.win e.window) e.leg) ∧ ∀ w, Vacant (s.win w) :=
  ⟨fun ⟨hwf, he, hv⟩ => ⟨hwf, fun e h => (he e h).2, hv⟩,
   fun ⟨hwf, he, hv⟩ => ⟨hwf, fun e h => ⟨active_of_mayList (hv _) (he e h), he e h⟩, hv⟩⟩

/-- A law of the store goes over to a state with the same windows and a part of the store. -/
theorem storeLaw_filter {s t : State} (h : StoreLaw s) (p : StaleEntry → Bool) (hw : t.windows = s.windows)
    (hst : t.store = s.store.filter p) : StoreLaw t := by
  rw [storeLaw_iff] at h ⊢
  obtain ⟨hwf, hent, hvac⟩ := h
  have hwin (w : WinIx) : t.win w = s.win w := by simp only [State.win, hw]
  refine ⟨hst ▸ storeWf_filter hwf p, fun e he => ?_, fun w => hwin w ▸ hvac w⟩
  rw [hst] at he
  exact hwin e.window ▸ hent e (List.mem_of_mem_filter he)

/-- A window record is replaced, and the entries of its slots that need not keep them go. -/
theorem storeLaw_setWin {s t : State} {w : WinIx} {x : Window} {kept : LegIx → Bool} {p : StaleEntry → Bool}
    (h : StoreLaw s) (hk : (s.win w).Keeps x kept) (ht : ∀ v, t.win v = (s.setWin w x).win v)
    (hst : t.store = s.store.filter p) (hp : ∀ e, p e = true → e.window = w → kept e.leg = true) : StoreLaw t := by
  rw [storeLaw_iff] at h ⊢
  obtain ⟨hwf, hent, hvac⟩ := h
  refine ⟨hst ▸ storeWf_filter hwf p, fun e he => ?_, fun v => ?_⟩
  · obtain ⟨he, hpe⟩ := List.mem_filter.mp (hst ▸ he)
    by_cases hw : w = e.window
    · subst hw
      rw [ht, setWin_win_self]
      exact (hk (hvac _)).2 _ (hp e hpe rfl) (hent e he)
    · rw [ht, setWin_win_of_ne _ _ hw]
      exact hent e he
  · by_cases hw : w = v
    · subst hw
      rw [ht, setWin_win_self]
      exact (hk (hvac _)).1
    · rw [ht, setWin_win_of_ne _ _ hw]
      exact hvac v

theorem storeLaw_insert {s : State} {e : StaleEntry} (h : StoreLaw s) (hl : s.store.length < Config.storeSize)
    (hm : MayList (s.win e.window) e.leg) : StoreLaw { s with store := storeInsert e s.store } := by
  rw [storeLaw_iff] at h ⊢
  obtain ⟨hwf, hent, hvac⟩ := h
  refine ⟨storeWf_insert hwf hl, fun x hx => ?_, hvac⟩
  rcases mem_storeInsert.mp hx with rfl | hx
  · exact hm
  · exact hent x hx

/-- The law holds where the store is empty and every window is at its cold-reset value. -/
theorem storeLaw_of_reset {s : State} (hw : s.windows = Vector.replicate 16 Window.reset) (hst : s.store = []) : StoreLaw s := by
  rw [storeLaw_iff, hst]
  refine ⟨⟨.nil, by decide⟩, by simp, fun w _ m hm => ?_⟩
  simp [State.win, hw, Window.reset] at hm

theorem Move.keeps_storeLaw {s t : State} (m : Move s t) (h : StoreLaw s) : StoreLaw t := by
  cases m with
  | window w x hk =>
    exact storeLaw_setWin (p := fun _ => true) h hk (fun _ => rfl) (by simp) (fun _ _ _ => rfl)
  | windowFree w x l hk =>
    refine storeLaw_setWin h hk (fun _ => rfl) rfl (fun e he hw => ?_)
    simpa [hw] using he
  | windowClose w x hk =>
    exact storeLaw_setWin h hk (fun _ => rfl) rfl (fun e he hw => absurd hw (by simpa using he))
  | dropStale p => exact storeLaw_filter h p rfl rfl
  | insertStale e hl hm => exact storeLaw_insert h hl hm
  | cold => exact storeLaw_of_reset rfl rfl
  | _ => exact h

/-- Settles O57: a step is a sequence of moves (`step_moves`), and each move keeps both laws. -/
theorem everyStepKeepsCountersAndStore : Obligations.EveryStepKeepsCountersAndStore :=
  fun _ _ hc hs h =>
    ⟨step_keeps (fun _ _ m => m.keeps_counterLaw) (fun _ hc => hc) hc h,
     step_keeps (fun _ _ m => m.keeps_storeLaw) (fun _ hs => hs) hs h⟩

end Sys2Proof.Machine
end

section
/-! SUPPORT. The bounds of trackers, hold queue, job queue, leg queues and in-flight tables (R44, R55, R66, R99, R127, R135, R140), kept by
every move. -/

namespace Sys2Proof.Machine

open Sys2Proof.Safety

/-! ## Trackers -/

/-- The references of a tracker: at most `limit`, each below the next reference, none twice. -/
def RefsLaw (limit next : Nat) (refs : List Nat) : Prop := refs.length ≤ limit ∧ refs.Nodup ∧ ∀ r ∈ refs, r < next

theorem RefsLaw.nil (limit next : Nat) : RefsLaw limit next [] := ⟨Nat.zero_le _, .nil, by simp⟩

theorem RefsLaw.sublist {limit n : Nat} {rs qs : List Nat} (h : RefsLaw limit n rs) (hs : qs.Sublist rs) : RefsLaw limit n qs :=
  ⟨hs.length_le.trans h.1, h.2.1.sublist hs, fun r hr => h.2.2 r (hs.subset hr)⟩

theorem RefsLaw.next {limit n : Nat} {rs : List Nat} (h : RefsLaw limit n rs) : RefsLaw limit (n + 1) rs :=
  ⟨h.1, h.2.1, fun r hr => Nat.lt_succ_of_lt (h.2.2 r hr)⟩

theorem RefsLaw.append {limit n : Nat} {rs : List Nat} (h : RefsLaw limit n rs) (hl : rs.length < limit) :
    RefsLaw limit (n + 1) (rs ++ [n]) := by
  obtain ⟨-, hnodup, hlt⟩ := h
  refine ⟨by simpa using hl, List.nodup_append.mpr ⟨hnodup, by simp, fun a ha b hb => ?_⟩, fun r hr => ?_⟩
  · have := hlt a ha
    simp only [List.mem_singleton] at hb
    omega
  · rcases List.mem_append.mp hr with hr | hr
    · exact Nat.lt_succ_of_lt (hlt r hr)
    · simp only [List.mem_singleton] at hr
      omega

theorem map_ref_filter {α : Type} (ref : α → Nat) (p : α → Bool) (es : List α) : ((es.filter p).map ref).Sublist (es.map ref) :=
  List.filter_sublist.map ref

theorem map_ref_map {α : Type} {ref : α → Nat} {f : α → α} (hf : ∀ e, ref (f e) = ref e) (es : List α) :
    (es.map f).map ref = es.map ref := by
  rw [List.map_map]
  exact List.map_congr_left fun e _ => hf e

/-! ## The job queue -/

/-- At most 8 jobs, each within its bounds; only the head runs. -/
def JobsLaw (js : List Job) : Prop := js.length ≤ 8 ∧ (∀ j ∈ js, JobBounds j) ∧ ∀ j ∈ js.tail, j.running = false

theorem JobsLaw.nil : JobsLaw [] := ⟨by simp, by simp, by simp⟩

theorem tail_sublist_tail {α : Type} {qs rs : List α} (h : qs.Sublist rs) : qs.tail.Sublist rs.tail := by
  cases h with
  | slnil => exact .slnil
  | cons a h => exact (List.tail_sublist _).trans h
  | cons_cons a h => exact h

theorem JobsLaw.sublist {js ks : List Job} (h : JobsLaw js) (hs : ks.Sublist js) : JobsLaw ks :=
  ⟨hs.length_le.trans h.1, fun j hj => h.2.1 j (hs.subset hj), fun j hj => h.2.2 j ((tail_sublist_tail hs).subset hj)⟩

theorem JobsLaw.append {js : List Job} (h : JobsLaw js) {j : Job} (hl : js.length < 8) (hr : j.running = false) (hb : JobBounds j) :
    JobsLaw (js ++ [j]) := by
  obtain ⟨-, hbounds, hidle⟩ := h
  refine ⟨by simpa using hl, fun k hk => ?_, fun k hk => ?_⟩
  · rcases List.mem_append.mp hk with hk | hk
    · exact hbounds k hk
    · exact List.mem_singleton.mp hk ▸ hb
  · cases js with
    | nil => simp at hk
    | cons i is =>
      rcases List.mem_append.mp hk with hk | hk
      · exact hidle k hk
      · exact List.mem_singleton.mp hk ▸ hr

theorem JobsLaw.head {j k : Job} {js : List Job} (h : JobsLaw (j :: js)) (hb : JobBounds j → JobBounds k) : JobsLaw (k :: js) := by
  obtain ⟨hlen, hbounds, hidle⟩ := h
  refine ⟨hlen, fun i hi => ?_, hidle⟩
  rcases List.mem_cons.mp hi with rfl | hi
  · exact hb (hbounds j List.mem_cons_self)
  · exact hbounds i (List.mem_cons_of_mem _ hi)

/-! ## The tables -/

theorem tableLaw_iff {s : State} :
    TableLaw s ↔ RefsLaw 32 s.nextRef (s.writes.map (·.ref)) ∧ RefsLaw 24 s.nextRef (s.reads.map (·.ref)) ∧
      s.hold.length ≤ 8 ∧ JobsLaw s.jobs := by
  simp only [TableLaw, RefsLaw, JobsLaw, List.length_map, List.forall_mem_map]
  tauto

theorem Move.keeps_tableLaw {s t : State} (m : Move s t) (h : TableLaw s) : TableLaw t := by
  rw [tableLaw_iff] at h ⊢
  obtain ⟨hwrites, hreads, hhold, hjobs⟩ := id h
  cases m with
  | mapWrites f hf => exact ⟨map_ref_map hf s.writes ▸ hwrites, hreads, hhold, hjobs⟩
  | dropWrites p => exact ⟨hwrites.sublist (map_ref_filter _ p _), hreads, hhold, hjobs⟩
  | addWrite e hl hr =>
    refine ⟨?_, hreads.next, hhold, hjobs⟩
    have := hwrites.append (by simpa [Config.writeTrackerSize] using hl)
    simpa [Machine.addWrite, hr] using this
  | addHold r hl => exact ⟨hwrites, hreads, by simpa [Config.holdQueueSize, Nat.succ_le_iff] using hl, hjobs⟩
  | dropHold p => exact ⟨hwrites, hreads, (List.length_filter_le _ _).trans hhold, hjobs⟩
  | mapReads f hf => exact ⟨hwrites, map_ref_map hf s.reads ▸ hreads, hhold, hjobs⟩
  | dropReads p => exact ⟨hwrites, hreads.sublist (map_ref_filter _ p _), hhold, hjobs⟩
  | addRead e hl hr =>
    refine ⟨hwrites.next, ?_, hhold, hjobs⟩
    have := hreads.append (by simpa [Config.readTrackerSize] using hl)
    simpa [hr] using this
  | placeJob j hl hr hb => exact ⟨hwrites, hreads, hhold, hjobs.append hl hr hb⟩
  | dropJobs p => exact ⟨hwrites, hreads, hhold, hjobs.sublist List.filter_sublist⟩
  | headJob j k js hj hb => exact ⟨hwrites, hreads, hhold, (hj ▸ hjobs).head hb⟩
  | popJob => exact ⟨hwrites, hreads, hhold, hjobs.sublist (List.tail_sublist _)⟩
  | resetEmpty => exact ⟨.nil _ _, .nil _ _, Nat.zero_le _, hjobs⟩
  | cold => exact ⟨.nil _ _, .nil _ _, Nat.zero_le _, .nil⟩
  | _ => exact h

/-! ## The queues and the table of a leg port -/

theorem aged_nil (n : Nat) : Aged n [] := ⟨.nil, by simp⟩

theorem aged_sublist {n : Nat} {q r : List LegRequest} (h : Aged n q) (hs : r.Sublist q) : Aged n r :=
  ⟨h.1.sublist hs, fun x hx => h.2 x (hs.subset hx)⟩

theorem aged_next {n : Nat} {q : List LegRequest} (h : Aged n q) : Aged (n + 1) q :=
  ⟨h.1, fun x hx => Nat.lt_succ_of_lt (h.2 x hx)⟩

theorem aged_append {n : Nat} {q : List LegRequest} (h : Aged n q) {r : LegRequest} (hr : r.age = n) : Aged (n + 1) (q ++ [r]) := by
  refine ⟨List.pairwise_append.mpr ⟨h.1, by simp, fun a ha b hb => ?_⟩, fun x hx => ?_⟩
  · rw [List.mem_singleton.mp hb, hr]
    exact h.2 a ha
  · rcases List.mem_append.mp hx with hx | hx
    · exact Nat.lt_succ_of_lt (h.2 x hx)
    · rw [List.mem_singleton.mp hx, hr]
      exact Nat.lt_succ_self n

/-- One queue of a leg port: within its places, in entry order. -/
def QueueLaw (p : LegPort) (q : QueueName) : Prop := (p.queue q).length ≤ q.size ∧ Aged p.nextAge (p.queue q)

/-- The in-flight table of a leg port: at most 16 entries, no number twice. -/
def FlightsLaw (fs : List Flight) : Prop := fs.length ≤ 16 ∧ (fs.map (·.number)).Nodup

theorem portLaw_iff {p : LegPort} :
    PortBounds p ∧ AgeOrder p ↔ (∀ q, QueueLaw p q) ∧ FlightsLaw p.inflight ∧ p.failures ≤ 4 := by
  constructor
  · rintro ⟨⟨hd, hl, hc, hi, hn, hf⟩, had, hal, hac⟩
    refine ⟨fun q => ?_, ⟨hi, hn⟩, hf⟩
    cases q with
    | direct => exact ⟨hd, had⟩
    | lag => exact ⟨hl, hal⟩
    | copy => exact ⟨hc, hac⟩
  · rintro ⟨hq, ⟨hi, hn⟩, hf⟩
    exact ⟨⟨(hq .direct).1, (hq .lag).1, (hq .copy).1, hi, hn, hf⟩, (hq .direct).2, (hq .lag).2, (hq .copy).2⟩

theorem setQueue_queue (p : LegPort) (q o : QueueName) (rs : List LegRequest) :
    (p.setQueue q rs).queue o = if o = q then rs else p.queue o := by
  cases q <;> cases o <;> rfl

@[simp] theorem setQueue_nextAge (p : LegPort) (q : QueueName) (rs : List LegRequest) : (p.setQueue q rs).nextAge = p.nextAge := by
  cases q <;> rfl

@[simp] theorem setQueue_inflight (p : LegPort) (q : QueueName) (rs : List LegRequest) : (p.setQueue q rs).inflight = p.inflight := by
  cases q <;> rfl

@[simp] theorem setQueue_failures (p : LegPort) (q : QueueName) (rs : List LegRequest) : (p.setQueue q rs).failures = p.failures := by
  cases q <;> rfl

/-- A queue of a port depends on the three queue fields only. -/
theorem queue_congr {p r : LegPort} (hd : r.direct = p.direct) (hl : r.lag = p.lag) (hc : r.copy = p.copy) (q : QueueName) :
    r.queue q = p.queue q := by
  cases q with
  | direct => exact hd
  | lag => exact hl
  | copy => exact hc

theorem QueueLaw.sublist {p r : LegPort} {q : QueueName} (h : QueueLaw p q) (ha : r.nextAge = p.nextAge)
    (hs : (r.queue q).Sublist (p.queue q)) : QueueLaw r q :=
  ⟨hs.length_le.trans h.1, ha ▸ aged_sublist h.2 hs⟩

theorem queueLaw_of_nil {p : LegPort} {q : QueueName} (h : p.queue q = []) : QueueLaw p q := by
  unfold QueueLaw
  rw [h]
  exact ⟨Nat.zero_le _, aged_nil _⟩

theorem QueueLaw.enter {p : LegPort} {q : QueueName} {r : LegRequest} (h : ∀ o, QueueLaw p o)
    (hl : (p.queue q).length < q.size) (ha : r.age = p.nextAge) (o : QueueName) :
    QueueLaw { p.setQueue q (p.queue q ++ [r]) with nextAge := p.nextAge + 1 } o := by
  have hqueue : LegPort.queue { p.setQueue q (p.queue q ++ [r]) with nextAge := p.nextAge + 1 } o =
      if o = q then p.queue q ++ [r] else p.queue o := by
    rw [← setQueue_queue]; exact queue_congr rfl rfl rfl o
  unfold QueueLaw
  rw [hqueue]
  split_ifs with ho
  · subst ho
    exact ⟨by simpa using hl, aged_append (h o).2 ha⟩
  · exact ⟨(h o).1, aged_next (h o).2⟩

theorem FlightsLaw.filter {fs : List Flight} (h : FlightsLaw fs) (p : Flight → Bool) : FlightsLaw (fs.filter p) :=
  ⟨(List.length_filter_le _ _).trans h.1, h.2.sublist (List.filter_sublist.map _)⟩

theorem FlightsLaw.map {fs : List Flight} (h : FlightsLaw fs) {f : Flight → Flight} (hf : ∀ x, (f x).number = x.number) :
    FlightsLaw (fs.map f) := by
  refine ⟨by simpa using h.1, ?_⟩
  have hmap : (fs.map f).map (·.number) = fs.map (·.number) := by
    rw [List.map_map]
    exact List.map_congr_left fun x _ => hf x
  rw [hmap]
  exact h.2

/-- A port that may send has room in its table, and the next number is free (R137). -/
theorem maySend_iff {p : LegPort} :
    p.maySend = true ↔ p.state = .up ∧ p.inflight.length < 16 ∧ ∀ f ∈ p.inflight, f.number ≠ p.nextNumber := by
  simp only [LegPort.maySend, LegPort.flight, Bool.and_eq_true, beq_iff_eq, decide_eq_true_eq, and_assoc,
    Option.isNone_iff_eq_none, List.find?_eq_none, ne_eq]
  rfl

theorem FlightsLaw.send {p : LegPort} (h : FlightsLaw p.inflight) (hs : p.maySend = true) (r : LegRequest) :
    FlightsLaw (p.inflight ++ [p.newFlight r]) := by
  obtain ⟨-, hroom, hfree⟩ := maySend_iff.mp hs
  refine ⟨by simpa using hroom, ?_⟩
  rw [List.map_append, List.nodup_append]
  refine ⟨h.2, by simp, fun a ha b hb => ?_⟩
  obtain ⟨f, hf, rfl⟩ := List.mem_map.mp ha
  have hb : b = p.nextNumber := by simpa [LegPort.newFlight] using hb
  exact hb ▸ hfree f hf

theorem send_queue (p : LegPort) (pos : Fin 8) (q o : QueueName) (r : LegRequest) :
    (p.send pos q r).queue o = if o = q then (p.queue q).tail else p.queue o := by
  rw [← setQueue_queue]; exact queue_congr rfl rfl rfl o

theorem LegMove.keeps_portLaw {p q : LegPort} (m : LegMove p q) (h : PortBounds p ∧ AgeOrder p) : PortBounds q ∧ AgeOrder q := by
  rw [portLaw_iff] at h ⊢
  obtain ⟨hq, hi, hf⟩ := id h
  cases m with
  | keep => exact h
  | conf _ hd hl hc hin hfail hn =>
    refine ⟨fun o => (hq o).sublist hn (queue_congr hd hl hc o ▸ .refl _), hin ▸ hi, ?_⟩
    rcases hfail with hfail | hfail
    · exact hfail
    · exact hfail ▸ hf
  | filter fd fl fc =>
    refine ⟨fun o => (hq o).sublist rfl ?_, hi, hf⟩
    cases o with
    | direct => exact List.filter_sublist
    | lag => exact List.filter_sublist
    | copy => exact List.filter_sublist
  | enter o r hl ha => exact ⟨.enter hq hl ha, by simpa using hi, by simpa using hf⟩
  | flights f hnum => exact ⟨fun o => (hq o).sublist rfl (queue_congr rfl rfl rfl o ▸ .refl _), hi.map hnum, hf⟩
  | free n => exact ⟨fun o => (hq o).sublist rfl (queue_congr rfl rfl rfl o ▸ .refl _), hi.filter _, hf⟩
  | send pos o r hs =>
    refine ⟨fun k => (hq k).sublist (by simp [LegPort.send]) ?_, hi.send hs r, by simpa [LegPort.send] using hf⟩
    rw [send_queue]
    split_ifs with hk
    · exact hk ▸ List.tail_sublist _
    · exact .refl _
  | clear => exact ⟨fun o => queueLaw_of_nil (by cases o <;> rfl), hi.map orphan_number, hf⟩
  | cold =>
    exact ⟨fun o => queueLaw_of_nil (by cases o <;> rfl), ⟨Nat.zero_le _, .nil⟩, Nat.zero_le _⟩

/-- What a move does to a leg's record is a move of the leg port. -/
theorem Move.leg_move {s t : State} (m : Move s t) (l : LegIx) : LegMove (s.leg l) (t.leg l) := by
  have hmap (f : LegPort → LegPort) : (s.legs.map f)[l] = f (s.leg l) := by simp [State.leg]
  cases m with
  | leg k q hq =>
    by_cases hk : k = l
    · subst hk; rw [setLeg_leg_self]; exact hq
    · rw [setLeg_leg_of_ne _ _ hk]; exact .keep _
  | resetEmpty => exact Eq.mpr (congrArg _ (hmap LegPort.abandonAll)) (.clear (s.leg l))
  | cold => exact Eq.mpr (congrArg _ (hmap LegPort.coldReset)) (.cold (s.leg l))
  | _ => exact .keep _

theorem Move.keeps_legLaw {s t : State} (m : Move s t) (h : LegLaw s) : LegLaw t :=
  fun l => (m.leg_move l).keeps_portLaw (h l)

/-- Settles O58: a step is a sequence of moves (`step_moves`), and each move keeps both laws. -/
theorem everyStepKeepsQueueAndTableBounds : Obligations.EveryStepKeepsQueueAndTableBounds :=
  fun _ _ ht hl h =>
    ⟨step_keeps (fun _ _ m => m.keeps_tableLaw) (fun _ ht => ht) ht h,
     step_keeps (fun _ _ m => m.keeps_legLaw) (fun _ hl => hl) hl h⟩

end Sys2Proof.Machine
end

section
/-! SUPPORT. The request link port's law (R152), kept by every move, and the laws at reset. -/

namespace Sys2Proof.Machine

open Sys2Proof.Safety

theorem inReset_eq_false {s : State} : inReset s = false ↔ s.port.progress = .none := by simp [inReset]

theorem inReset_eq_true {s : State} : inReset s = true ↔ s.port.progress ≠ .none := by simp [inReset]

/-! ## Acceptance (R152) -/

/-- Acceptance state, stall cause, head and reset progress agree. -/
def AcceptLaw (a : AcceptState) (c : StallCause) (head : Option Request) (p : ResetProgress) : Prop :=
  (a = .opened ↔ c = .none) ∧ (a = .resetting ↔ c = .resetting) ∧ (a = .resetting ↔ p ≠ .none) ∧
  (a = .stalled → head.isSome = true)

theorem linkLaw_iff {s : State} :
    LinkLaw s ↔ AcceptLaw s.link.accept s.link.cause s.link.head s.port.progress ∧ (s.link.tags.map (·.tag)).Nodup := by
  simp only [LinkLaw, AcceptLaw, and_assoc]

theorem acceptLaw_opened (head : Option Request) : AcceptLaw .opened .none head .none := by
  refine ⟨?_, ?_, ?_, ?_⟩ <;> simp

theorem acceptLaw_resetting (head : Option Request) {p : ResetProgress} (hp : p ≠ .none) : AcceptLaw .resetting .resetting head p := by
  refine ⟨?_, ?_, ?_, ?_⟩ <;> simp [hp]

theorem acceptLaw_stalled {head : Option Request} {c : StallCause} (hh : head.isSome = true) (hn : c ≠ .none) (hr : c ≠ .resetting) :
    AcceptLaw .stalled c head .none := by
  refine ⟨?_, ?_, ?_, ?_⟩ <;> simp [hh, hn, hr]

/-- A datapath reset in progress stays lawful in another phase. -/
theorem AcceptLaw.progress {a : AcceptState} {c : StallCause} {head : Option Request} {p q : ResetProgress} (h : AcceptLaw a c head p)
    (hp : p ≠ .none) (hq : q ≠ .none) : AcceptLaw a c head q := by
  obtain ⟨hopen, hreset, hprogress, hstalled⟩ := h
  exact ⟨hopen, hreset, hprogress.trans (iff_of_true hp hq), hstalled⟩

/-- A port without head takes one. -/
theorem AcceptLaw.head {a : AcceptState} {c : StallCause} {p : ResetProgress} (h : AcceptLaw a c none p) (r : Request) :
    AcceptLaw a c (some r) p := by
  obtain ⟨hopen, hreset, hprogress, -⟩ := h
  exact ⟨hopen, hreset, hprogress, fun _ => rfl⟩

/-! ## Tags in use (R155) -/

theorem tagInUse_eq_false {s : State} {t : Tag} : tagInUse s t = false ↔ t ∉ s.link.tags.map (·.tag) := by
  simp [tagInUse]

theorem nodup_admit {rs : List TagRecord} (h : (rs.map (·.tag)).Nodup) {r : TagRecord} (hr : r.tag ∉ rs.map (·.tag)) :
    ((rs ++ [r]).map (·.tag)).Nodup := by
  rw [List.map_append]
  exact h.append (by simp) (by simpa using hr)

/-- Counting down changes no tag and adds none. -/
theorem countDown_tags (t : Tag) (rs : List TagRecord) : ((countDown t rs).map (·.tag)).Sublist (rs.map (·.tag)) := by
  induction rs with
  | nil => exact .slnil
  | cons r rs ih =>
    unfold countDown at ih ⊢
    rw [List.filterMap_cons]
    split
    · exact .cons _ ih
    · rename_i q hq
      have hq : q.tag = r.tag := by
        split at hq
        · split at hq <;> cases hq; rfl
        · cases hq; rfl
      rw [List.map_cons, List.map_cons, hq]
      exact ih.cons_cons _

/-! ## Moves -/

theorem Move.keeps_linkLaw {s t : State} (m : Move s t) (h : LinkLaw s) : LinkLaw t := by
  rw [linkLaw_iff] at h ⊢
  obtain ⟨haccept, htags⟩ := id h
  cases m with
  | port q hq => exact ⟨hq ▸ haccept, htags⟩
  | settle hr => exact ⟨(inReset_eq_false.mp hr) ▸ acceptLaw_opened none, htags⟩
  | stall c hr hh hn hc => exact ⟨(inReset_eq_false.mp hr) ▸ acceptLaw_stalled hh hn hc, htags⟩
  | holdHead hr => exact ⟨acceptLaw_resetting _ (inReset_eq_true.mp hr), htags⟩
  | takeHead r rs hh => exact ⟨(hh ▸ haccept).head r, htags⟩
  | admitTag g d hg => exact ⟨haccept, nodup_admit htags (tagInUse_eq_false.mp hg)⟩
  | answerTaken a rest _ => exact ⟨haccept, htags.sublist (countDown_tags _ _)⟩
  | resetStart => exact ⟨acceptLaw_resetting _ (p := .answering) (by decide), htags⟩
  | resetEmpty hr => exact ⟨haccept.progress (inReset_eq_true.mp hr) (q := .clearing) (by decide), htags⟩
  | reopen => exact ⟨acceptLaw_opened _, htags⟩
  | cold => exact ⟨acceptLaw_opened none, .nil⟩
  | _ => exact h

/-- Settles O59: a step is a sequence of moves (`step_moves`), and each move keeps the law. -/
theorem everyStepKeepsTheLinkLaw : Obligations.EveryStepKeepsTheLinkLaw :=
  fun _ _ hs h => step_keeps (fun _ _ m => m.keeps_linkLaw) (fun _ hs => hs) hs h

/-! ## The laws at reset -/

theorem reset_leg (l : LegIx) : State.reset.leg l = LegPort.reset := by simp [State.leg, State.reset]

theorem portLaw_reset : PortBounds LegPort.reset ∧ AgeOrder LegPort.reset :=
  portLaw_iff.mpr ⟨fun q => queueLaw_of_nil (by cases q <;> rfl), ⟨Nat.zero_le _, .nil⟩, Nat.zero_le _⟩

/-- Settles O60: each law at the cold-reset values, by the form that its step lemma uses. -/
theorem theLawsHoldAtReset : Obligations.TheLawsHoldAtReset := by
  refine ⟨EventUnit.lawful_reset, fun l => ?counters, storeLaw_of_reset rfl rfl, tableLaw_iff.mpr ⟨.nil _ _, .nil _ _, Nat.zero_le _, .nil⟩,
    fun l => ?legs, linkLaw_iff.mpr ⟨acceptLaw_opened none, .nil⟩⟩
  case counters =>
    have hzero : State.reset.counters l = Counters.zero := replicate_counters l
    exact hzero ▸ Counters.lawful_zero
  case legs => exact (reset_leg l).symm ▸ portLaw_reset

end Sys2Proof.Machine
end

section
/-! SUPPORT. The step, the queue of commands, and the cold-reset values (R2, R45, R67, R88, R100, R127, R152, R163, R172, R175, R177). -/

namespace Sys2Proof.Machine

open Sys2Proof.Safety

/-! ## The step -/

/-- Settles O1: the two equations of `step`, by the queue's form. -/
theorem stepTakesTheFrontCommand : Obligations.StepTakesTheFrontCommand := by
  refine ⟨fun c rest s h => ?_, fun s h => ?_⟩
  · simp only [step, h]
  · simp only [step, h]

/-- No move touches the queue of commands. -/
theorem Move.pending_eq {s t : State} (m : Move s t) : t.pending = s.pending := by
  cases m with
  | _ => rfl

theorem Moves.pending_eq {s t : State} (h : Moves s t) : t.pending = s.pending := by
  induction h with
  | refl => rfl
  | step _ m ih => exact m.pending_eq.trans ih

/-- Every meaning is of the form `.next …`. -/
theorem exec_completes (c : Instr) (s : State) : ∃ t, exec c s = .next t := by
  cases c <;> exact ⟨_, rfl⟩

/-- Settles O2: every meaning answers a next state, which moves reach, and no move touches the queue. -/
theorem everyCommandCompletes : Obligations.EveryCommandCompletes := fun c s => by
  obtain ⟨t, ht⟩ := exec_completes c s
  exact ⟨t, ht, (exec_moves ht).pending_eq⟩

/-! ## Cold reset -/

theorem reset_win (w : WinIx) : State.reset.win w = Window.reset := by simp [State.win, State.reset]

theorem reset_counters (l : LegIx) : State.reset.counters l = Counters.zero := replicate_counters l

/-- Settles O4: each field of `State.reset`, the indexed ones by `reset_win`, `reset_leg` and `reset_counters`. -/
theorem resetStateHoldsColdResetValues : Obligations.ResetStateHoldsColdResetValues := by
  refine ⟨reset_win, rfl, rfl, rfl, rfl, rfl, rfl, rfl, rfl, fun l => ?legs, rfl, rfl, rfl, rfl, rfl, rfl, rfl, rfl, rfl, rfl, rfl,
    reset_counters, rfl, rfl, rfl, rfl, rfl⟩
  case legs =>
    rw [reset_leg]
    exact ⟨rfl, rfl, rfl, rfl, rfl, rfl, rfl, rfl, rfl, rfl, rfl⟩

/-- Settles O5: `assertReset` unfolded. -/
theorem resetAssertAppliesColdReset : Obligations.ResetAssertAppliesColdReset := fun _ => rfl

end Sys2Proof.Machine
end

section
/-! SUPPORT. What answers, demotions, releases, issues and their parts leave of windows, legs and the link: of a window all but its slots, of a
leg all but its queues, its table's entries and the age counter, of the link all but the answer queue's tail. -/

namespace Sys2Proof.Machine

open Sys2Proof.Safety

/-! ## The parts that stay -/

/-- A window less the slot records of its members. -/
def Window.own (x : Window) : Window := { x with members := x.members.map Member.unbound }

/-- A leg port less its queues, its in-flight entries and its age counter. -/
def LegPort.conf (p : LegPort) : LegPort := { p with direct := [], lag := [], copy := [], inflight := [], nextAge := 0 }

/-- The windows keep their own fields and their members' legs and bases; the legs keep their configuration, and their tables the numbers
in use; of the link only the answer queue gets longer. -/
structure Framed (s t : State) : Prop where
  own : ∀ w, (t.win w).own = (s.win w).own
  conf : ∀ l, (t.leg l).conf = (s.leg l).conf
  numbers : ∀ l, (t.leg l).inflight.map (·.number) = (s.leg l).inflight.map (·.number)
  link : ∃ items, t.link = { s.link with answers := s.link.answers ++ items }

theorem Framed.trans {s t u : State} (h : Framed s t) (k : Framed t u) : Framed s u := by
  obtain ⟨as, ha⟩ := h.link
  obtain ⟨bs, hb⟩ := k.link
  exact ⟨fun w => (k.own w).trans (h.own w), fun l => (k.conf l).trans (h.conf l), fun l => (k.numbers l).trans (h.numbers l),
    as ++ bs, by rw [hb, ha]; simp⟩

/-- A change that touches no window, no leg and not the link. -/
theorem Framed.same {s t : State} (hw : t.windows = s.windows) (hl : t.legs = s.legs) (hk : t.link = s.link) : Framed s t := by
  have hwin (w : WinIx) : t.win w = s.win w := by simp only [State.win, hw]
  have hleg (l : LegIx) : t.leg l = s.leg l := by simp only [State.leg, hl]
  exact ⟨fun w => by rw [hwin], fun l => by rw [hleg], fun l => by rw [hleg], [], by simp [hk]⟩

theorem Framed.refl (s : State) : Framed s s := .same rfl rfl rfl

theorem Framed.foldl {α : Type} {f : State → α → State} (h : ∀ u a, Framed u (f u a)) (as : List α) (s : State) :
    Framed s (as.foldl f s) := by
  induction as generalizing s with
  | nil => exact .refl s
  | cons a as ih => exact (h s a).trans (ih _)

theorem Framed.ite {s t u : State} {c : Prop} [Decidable c] (h : Framed s t) (k : Framed s u) : Framed s (if c then t else u) := by
  split
  · exact h
  · exact k

/-! ## Small updates -/

theorem post_framed (s : State) (r : EventRec) : Framed s (post r s) := .same rfl rfl rfl
theorem setNotice_framed (s : State) (n : Notice) : Framed s { s with notice := n } := .same rfl rfl rfl
theorem setNotice_kept (s : State) (n : Notice) : Kept s { s with notice := n } := ⟨rfl, rfl, rfl, rfl, rfl, rfl, rfl, rfl⟩
theorem raise_framed (s : State) : Framed s s.raise := .same rfl rfl rfl
theorem raiseHead_framed (s : State) : Framed s s.raiseHead := .same rfl rfl rfl
theorem raiseWork_framed (s : State) : Framed s s.raiseWork := .same rfl rfl rfl
theorem modWrite_framed (s : State) (r : Nat) (f : WriteEntry → WriteEntry) : Framed s (modWrite r f s) := .same rfl rfl rfl
theorem freeSlot_framed (s : State) (w : WinIx) (l : LegIx) : Framed s (freeSlot w l s) := .same rfl rfl rfl

theorem pushAnswers_framed (s : State) (as : List AnswerItem) : Framed s (pushAnswers as s) :=
  ⟨fun _ => rfl, fun _ => rfl, fun _ => rfl, as, rfl⟩

theorem modLeg_framed (s : State) (l : LegIx) (f : LegPort → LegPort) (hc : (f (s.leg l)).conf = (s.leg l).conf)
    (hn : (f (s.leg l)).inflight.map (·.number) = (s.leg l).inflight.map (·.number)) : Framed s (modLeg l f s) := by
  refine ⟨fun _ => rfl, fun k => ?_, fun k => ?_, [], by simp⟩
  all_goals
    by_cases hk : l = k
    · subst hk; simpa
    · rw [modLeg_leg_of_ne _ _ hk]

theorem own_mapMember (x : Window) (l : LegIx) (f : Member → Member) (hf : ∀ m, (f m).unbound = m.unbound) :
    ({ x with members := x.members.map fun m => if m.leg == l then f m else m } : Window).own = x.own := by
  unfold Window.own
  rw [List.map_map]
  congr 1
  refine List.map_congr_left fun m _ => ?_
  simp only [Function.comp_apply]
  split
  · exact hf m
  · rfl

theorem modMember_framed (s : State) (w : WinIx) (l : LegIx) (f : Member → Member) (hf : ∀ m, (f m).unbound = m.unbound) :
    Framed s (modMember w l f s) := by
  refine ⟨fun v => ?_, fun _ => rfl, fun _ => rfl, [], by simp⟩
  unfold modMember
  by_cases hv : w = v
  · subst hv
    rw [modWin_win_self]
    exact own_mapMember _ _ _ hf
  · rw [modWin_win_of_ne _ _ hv]

theorem addStale_framed (s : State) (w : WinIx) (l : LegIx) (g : Nat) : Framed s (addStale w l g s) := by
  unfold addStale
  split
  · refine .ite (.refl s) (.ite (.refl s) (.ite (.same rfl rfl rfl) ?_))
    exact (modMember_framed s w l _ (by intro m; rfl)).trans ((freeSlot_framed _ _ _).trans (post_framed _ _))
  · exact .refl s

theorem discardWrites_framed (s : State) (w : WinIx) (l : LegIx) : Framed s (discardWrites w l s) := by
  unfold discardWrites
  exact (modLeg_framed s l _ (by rfl) (by rfl)).trans (raise_framed _)

theorem map_orphanIf_number (own : Owner → Bool) (fs : List Flight) :
    (fs.map fun f => if f.owner.any own then f.orphan else f).map (·.number) = fs.map (·.number) := by
  rw [List.map_map]
  refine List.map_congr_left fun f _ => ?_
  simp only [Function.comp_apply]
  split
  · exact orphan_number f
  · rfl

theorem orphanWhere_framed (s : State) (l : LegIx) (own : Owner → Bool) : Framed s (orphanWhere l own s) := by
  unfold orphanWhere
  exact modLeg_framed s l _ rfl (map_orphanIf_number own _)

theorem modJob_framed (s : State) (f : Job → Job) : Framed s (modJob f s) := by
  unfold modJob
  split
  · exact .ite (.same rfl rfl rfl) (.refl s)
  · exact .refl s

theorem setQueue_conf (p : LegPort) (q : QueueName) (rs : List LegRequest) (n : Nat) :
    ({ p.setQueue q rs with nextAge := n } : LegPort).conf = p.conf := by
  cases q <;> rfl

theorem enqueue_framed (s : State) (l : LegIx) (q : QueueName) (k : ReqKind) (a n : Nat) (d : List Byte) (o : Owner) :
    Framed s (enqueue l q k a n d o s) := by
  unfold enqueue
  exact .ite (modLeg_framed s l _ (setQueue_conf _ _ _ _) (by simp)) (.refl s)

/-! ## Answers -/

theorem answerWrite_framed (s : State) (r : Nat) (a : Answer) : Framed s (answerWrite r a s) := by
  unfold answerWrite
  split
  · exact .ite (.refl s) ((modWrite_framed s _ _).trans (pushAnswers_framed _ [_]))
  · exact .refl s

theorem retireWrite_framed (s : State) (r : Nat) : Framed s (retireWrite r s) := by
  unfold retireWrite
  split
  · exact .ite (.same rfl rfl rfl) (.refl s)
  · exact .refl s

theorem decideEmptied_framed (s : State) (r : Nat) : Framed s (decideEmptied r s) := by
  unfold decideEmptied
  split
  · refine .ite ?_ (.refl s)
    split <;> exact (answerWrite_framed _ _ _).trans (retireWrite_framed _ _)
  · exact .refl s

theorem decideAll_framed (s : State) (rs : List Nat) : Framed s (decideAll rs s) := .foldl decideEmptied_framed rs s

theorem clearOwed_framed (s : State) (r : Nat) (l : LegIx) : Framed s (clearOwed r l s) := .same rfl rfl rfl

theorem clearAndRecord_framed (s : State) (w : WinIx) (l : LegIx) (es : List WriteEntry) : Framed s (clearAndRecord w l es s) := by
  induction es generalizing s with
  | nil => exact .refl s
  | cons e es ih =>
    refine Framed.trans ?_ (ih _)
    split
    · exact (clearOwed_framed _ _ _).trans (addStale_framed _ _ _ _)
    · exact clearOwed_framed _ _ _

/-! ## The running job -/

theorem abandonOn_framed (s : State) (l : LegIx) : Framed s (abandonOn s l) := by
  have h : Framed s (orphanWhere l Owner.isChunk (modLeg l (fun p => { p with copy := p.copy.filter fun r => !r.isChunk }) s)) :=
    (modLeg_framed s l _ rfl rfl).trans (orphanWhere_framed _ _ _)
  exact .ite (h.trans (raise_framed _)) h

theorem abandonChunks_framed (s : State) : Framed s (abandonChunks s) := by
  unfold abandonChunks
  have h := Framed.foldl abandonOn_framed allLegs s
  generalize allLegs.foldl abandonOn s = u at h ⊢
  exact h.trans ((modJob_framed _ _).trans (raiseWork_framed _))

theorem markReleased_framed (s : State) : Framed s (markReleased s) := .same rfl rfl rfl

theorem setJobs_framed (s : State) (js : List Job) : Framed s { s with jobs := js } := .same rfl rfl rfl

theorem abortJob_framed (s : State) : Framed s (abortJob s) := by
  unfold abortJob
  split
  · exact (abandonChunks_framed s).trans ((setJobs_framed _ _).trans (markReleased_framed _))
  · exact .refl s

theorem takeSource_framed (s : State) : Framed s (takeSource s) := by
  unfold takeSource
  split
  · exact (modJob_framed _ _).trans (raiseWork_framed _)
  · exact .refl s

theorem restartPass_framed (s : State) : Framed s (restartPass s) :=
  (abandonChunks_framed s).trans ((modJob_framed _ _).trans (takeSource_framed _))

/-! ## Demotions: for whatever takes the released writes, if it keeps the frame too -/

theorem postChange_framed (s : State) (w : WinIx) (old new : Option Health) : Framed s (postChange w old new s) := by
  unfold postChange
  split
  · exact .ite (.refl s) (post_framed _ _)
  · exact .refl s

theorem demoteOne_framed {issue : State → State} (hi : ∀ u, Framed u (issue u)) (s : State) (w : WinIx) (l : LegIx) (c : MemberCause)
    (jc : JobCause) (b : Bool) : Framed s (demoteOne issue w l c jc b s) := by
  unfold demoteOne
  split
  · extract_lets old ended s1 s2 es s3 s4 new s5 s6 s7
    have h1 : Framed s s1 := (modMember_framed _ _ _ _ (by intro m; rfl)).trans (raise_framed _)
    have h2 : Framed s s2 := .ite (h1.trans (freeSlot_framed _ _ _)) h1
    have h3 : Framed s s3 := h2.trans ((clearAndRecord_framed _ _ _ _).trans (discardWrites_framed _ _ _))
    have h4 : Framed s s4 := .ite (h3.trans (abortJob_framed _)) (.ite (h3.trans (restartPass_framed _)) h3)
    have h5 : Framed s s5 := .ite (h4.trans (hi _)) h4
    have h6 : Framed s s6 := h5.trans (decideAll_framed _ _)
    have h7 : Framed s s7 := by
      cases h : ended with
      | none => simpa only [s7, h] using h6
      | some j => simpa only [s7, h] using h6.trans (post_framed _ _)
    exact h7.trans ((post_framed _ _).trans (postChange_framed _ _ _ _))
  · exact .refl s

theorem lostTarget_framed {issue : State → State} (hi : ∀ u, Framed u (issue u)) (s : State) (w : WinIx) :
    Framed s (lostTarget issue w s) := by
  unfold lostTarget
  split
  · exact .ite (demoteOne_framed hi _ _ _ _ _ _) (.refl s)
  · exact .refl s

theorem demoteWith_framed {issue : State → State} (hi : ∀ u, Framed u (issue u)) (s : State) (w : WinIx) (l : LegIx) (c : MemberCause)
    (jc : JobCause) : Framed s (demoteWith issue w l c jc s) :=
  (demoteOne_framed hi _ _ _ _ _ _).trans (lostTarget_framed hi _ _)

theorem demoteHolding_framed (s : State) (w : WinIx) (l : LegIx) (c : MemberCause) (jc : JobCause) :
    Framed s (demoteHolding w l c jc s) := demoteWith_framed .refl s w l c jc

theorem makeCurrent_framed (s : State) (w : WinIx) (l : LegIx) : Framed s (makeCurrent w l s) :=
  (modMember_framed s w l _ (by intro m; rfl)).trans ((freeSlot_framed _ _ _).trans (raise_framed _))

theorem makeWhole_framed (s : State) (w : WinIx) (l : LegIx) : Framed s (makeWhole w l s) :=
  (modMember_framed s w l _ (by intro m; rfl)).trans (freeSlot_framed _ _ _)

/-! ## Placing, issue and release -/

theorem withdrawRead_framed (l : LegIx) (s : State) (r : LegRequest) : Framed s (withdrawRead l s r) := by
  unfold withdrawRead
  split <;> exact .same rfl rfl rfl

theorem withdrawReads_framed (s : State) (l : LegIx) (a n : Nat) : Framed s (withdrawReads l a n s) :=
  .ite (.refl s) ((modLeg_framed s l _ rfl rfl).trans ((Framed.foldl (withdrawRead_framed l) _ _).trans (raise_framed _)))

theorem withdrawChunks_framed (s : State) (l : LegIx) (a n : Nat) : Framed s (withdrawChunks l a n s) := by
  unfold withdrawChunks
  split
  · exact .refl s
  · exact (modLeg_framed s l _ rfl rfl).trans ((modJob_framed _ _).trans (raise_framed _))

theorem placeWrite_framed (s : State) (r : Nat) (l : LegIx) (q : QueueName) : Framed s (placeWrite r l q s) := by
  unfold placeWrite
  split
  · split
    · exact .ite (((withdrawReads_framed _ _ _ _).trans (withdrawChunks_framed _ _ _ _)).trans ((enqueue_framed _ _ _ _ _ _ _ _).trans
        ((modWrite_framed _ _ _).trans (raiseWork_framed _)))) (.refl s)
    · exact .refl s
  · exact .refl s

theorem issueWrite_framed (s : State) (r : Nat) (w : WinIx) (g : Nat) (p : WritePolicy) : Framed s (issueWrite r w g p s) := by
  unfold issueWrite
  exact (Framed.foldl (fun u (m : Member) => placeWrite_framed u _ _ _) _ s).trans
    ((Framed.foldl (fun u (m : Member) => addStale_framed u _ _ _) _ _).trans (raiseWork_framed _))

theorem lagOverflow_framed (s : State) (w : WinIx) (p : WritePolicy) : Framed s (lagOverflow w p s) := by
  unfold lagOverflow
  exact .ite (.foldl (fun u (m : Member) => .ite (demoteHolding_framed _ _ _ _ _) (.refl _)) _ s) (.refl s)

theorem reportOpen_framed (s : State) (w : WinIx) (g : Nat) : Framed s (reportOpen w g s) := .ite (modJob_framed _ _) (.refl s)

theorem unhold_framed (s : State) (r : Nat) : Framed s (unhold r s) := .same rfl rfl rfl

theorem releaseOne_framed (s : State) (r : Nat) : Framed s (releaseOne r s).state := by
  unfold releaseOne
  split
  · split
    · split
      · exact modWrite_framed _ _ _
      · split
        · exact (unhold_framed _ _).trans (decideEmptied_framed _ _)
        · dsimp only
          split
          · exact (reportOpen_framed _ _ _).trans (lagOverflow_framed _ _ _)
          · exact (reportOpen_framed _ _ _).trans ((lagOverflow_framed _ _ _).trans
              ((modWrite_framed _ _ _).trans ((unhold_framed _ _).trans (issueWrite_framed _ _ _ _ _))))
    · exact .refl s
  · exact .refl s

theorem releaseLoop_framed (n : Nat) (s : State) : Framed s (releaseLoop n s) := by
  induction n generalizing s with
  | zero => exact .refl s
  | succ n ih =>
    unfold releaseLoop
    split
    · exact .ite ((releaseOne_framed _ _).trans (ih _)) (releaseOne_framed _ _)
    · exact .refl s

theorem resumeRelease_framed (s : State) : Framed s (resumeRelease s) :=
  .ite ((releaseLoop_framed _ s).trans (raiseHead_framed _)) (.refl s)

theorem resumeIfDue_framed (s : State) : Framed s (resumeIfDue s) :=
  .ite ((setNotice_framed s _).trans (resumeRelease_framed _)) (.refl s)

theorem resumeIfDue_kept (s : State) : Kept s (resumeIfDue s) :=
  .ite ((setNotice_kept s _).trans (resumeRelease_kept _)) (.refl s)

theorem demote_framed (s : State) (w : WinIx) (l : LegIx) (c : MemberCause) (jc : JobCause) : Framed s (demote w l c jc s) :=
  demoteWith_framed resumeRelease_framed s w l c jc

theorem endIfLost_framed (s : State) (w : WinIx) : Framed s (endIfLost w s) := lostTarget_framed resumeRelease_framed s w

end Sys2Proof.Machine
end

section
/-! SUPPORT. What the reactions of other blocks never change (log entry 3): the pass-through setting, the next job number, the RESET line, the
port but for reset progress, and the legs but for queues, in-flight entries and age counters. -/

namespace Sys2Proof.Machine

open Sys2Proof.Safety

/-- What no reaction changes. -/
structure Untouched (s t : State) : Prop where
  passLeg : t.passLeg = s.passLeg
  nextJob : t.nextJob = s.nextJob
  resetAsserted : t.resetAsserted = s.resetAsserted
  choices : t.choices = s.choices
  port : { t.port with progress := s.port.progress } = s.port
  conf : ∀ l, (t.leg l).conf = (s.leg l).conf

theorem Untouched.refl (s : State) : Untouched s s := ⟨rfl, rfl, rfl, rfl, rfl, fun _ => rfl⟩

theorem Untouched.trans {s t u : State} (h : Untouched s t) (k : Untouched t u) : Untouched s u where
  passLeg := k.passLeg.trans h.passLeg
  nextJob := k.nextJob.trans h.nextJob
  resetAsserted := k.resetAsserted.trans h.resetAsserted
  choices := k.choices.trans h.choices
  port := (congrArg (fun p : Port => { p with progress := s.port.progress }) k.port).trans h.port
  conf l := (k.conf l).trans (h.conf l)

/-- What a reaction leaves alone; the intake of requests leaves alone the same but for the requests that wait. -/
structure Reacted (s t : State) : Prop extends Untouched s t where
  waiting : t.link.waiting = s.link.waiting

theorem Reacted.trans {s t u : State} (h : Reacted s t) (k : Reacted t u) : Reacted s u :=
  ⟨h.toUntouched.trans k.toUntouched, k.waiting.trans h.waiting⟩

/-- A change that touches none of these, but for reset progress. -/
theorem Reacted.same {s t : State} (hp : t.passLeg = s.passLeg) (hj : t.nextJob = s.nextJob) (hr : t.resetAsserted = s.resetAsserted)
    (hc : t.choices = s.choices) (hq : { t.port with progress := s.port.progress } = s.port) (hl : t.legs = s.legs)
    (hw : t.link.waiting = s.link.waiting) : Reacted s t :=
  ⟨⟨hp, hj, hr, hc, hq, fun l => by simp only [State.leg, hl]⟩, hw⟩

theorem Reacted.refl (s : State) : Reacted s s := .same rfl rfl rfl rfl rfl rfl rfl

theorem Reacted.of_framed {s t : State} (h : Framed s t) (k : Kept s t) : Reacted s t :=
  ⟨⟨k.passLeg, k.nextJob, k.resetAsserted, k.choices, by rw [k.port], h.conf⟩, by
    obtain ⟨items, hlink⟩ := h.link
    rw [hlink]⟩

theorem Reacted.foldl {α : Type} {f : State → α → State} (h : ∀ u a, Reacted u (f u a)) (as : List α) (s : State) :
    Reacted s (as.foldl f s) := by
  induction as generalizing s with
  | nil => exact .refl s
  | cons a as ih => exact (h s a).trans (ih _)

theorem Reacted.ite {s t u : State} {c : Prop} [Decidable c] (h : Reacted s t) (k : Reacted s u) :
    Reacted s (if c then t else u) := by
  split
  · exact h
  · exact k

theorem setNotice_reacted (s : State) (n : Notice) : Reacted s { s with notice := n } := .same rfl rfl rfl rfl rfl rfl rfl
theorem raiseWork_reacted (s : State) : Reacted s s.raiseWork := .same rfl rfl rfl rfl rfl rfl rfl
theorem raise_reacted (s : State) : Reacted s s.raise := .same rfl rfl rfl rfl rfl rfl rfl
theorem post_reacted (s : State) (r : EventRec) : Reacted s (post r s) := .same rfl rfl rfl rfl rfl rfl rfl
theorem count_reacted (s : State) (l : LegIx) (k : Counter) : Reacted s (count l k s) := .same rfl rfl rfl rfl rfl rfl rfl
theorem modWin_reacted (s : State) (w : WinIx) (f : Window → Window) : Reacted s (modWin w f s) := .same rfl rfl rfl rfl rfl rfl rfl
theorem modRead_reacted (s : State) (r : Nat) (f : ReadEntry → ReadEntry) : Reacted s (modRead r f s) := .same rfl rfl rfl rfl rfl rfl rfl
theorem setLink_reacted (s : State) (k : Link) (h : k.waiting = s.link.waiting) : Reacted s { s with link := k } :=
  .same rfl rfl rfl rfl rfl rfl h
theorem pushAnswers_reacted (s : State) (as : List AnswerItem) : Reacted s (pushAnswers as s) := setLink_reacted s _ rfl
theorem setJobs_reacted (s : State) (js : List Job) : Reacted s { s with jobs := js } := .same rfl rfl rfl rfl rfl rfl rfl
theorem addWrite_reacted (s : State) (e : WriteEntry) : Reacted s (addWrite e s) := .same rfl rfl rfl rfl rfl rfl rfl
theorem enqueue_reacted (s : State) (l : LegIx) (q : QueueName) (k : ReqKind) (a n : Nat) (d : List Byte) (o : Owner) :
    Reacted s (enqueue l q k a n d o s) := .of_framed (enqueue_framed _ _ _ _ _ _ _ _) (enqueue_kept _ _ _ _ _ _ _ _)
theorem modJob_reacted (s : State) (f : Job → Job) : Reacted s (modJob f s) := .of_framed (modJob_framed _ _) (modJob_kept _ _)

/-! ## Read steering -/

theorem placeRead_reacted (s : State) (r : Nat) (l : LegIx) : Reacted s (placeRead r l s) := by
  unfold placeRead
  split
  · split
    · dsimp only
      split
      · exact (enqueue_reacted _ _ _ _ _ _ _ _).trans ((modRead_reacted _ _ _).trans (count_reacted _ _ _))
      · exact (enqueue_reacted _ _ _ _ _ _ _ _).trans (modRead_reacted _ _ _)
    · exact .refl s
  · exact .refl s

theorem advanceRotate_reacted (s : State) (w : WinIx) (l : LegIx) : Reacted s (advanceRotate w l s) :=
  .ite (modWin_reacted _ _ _) (.refl s)

theorem retireRead_reacted (s : State) (r : Nat) : Reacted s (retireRead r s) := .same rfl rfl rfl rfl rfl rfl rfl

theorem faultRead_reacted (s : State) (r : Nat) : Reacted s (faultRead r s) := by
  unfold faultRead
  split
  · exact (pushAnswers_reacted s _).trans (retireRead_reacted _ _)
  · exact .refl s

theorem steerWindow_reacted (s : State) (e : ReadEntry) (w : WinIx) : Reacted s (steerWindow e w s) := by
  unfold steerWindow
  refine .ite (faultRead_reacted _ _) ?_
  split
  · exact (placeRead_reacted _ _ _).trans (advanceRotate_reacted _ _ _)
  · exact .ite (.refl s) (faultRead_reacted _ _)

theorem steerPass_reacted (s : State) (e : ReadEntry) (l : LegIx) : Reacted s (steerPass e l s) :=
  .ite (placeRead_reacted _ _ _) (.ite (.refl s) (faultRead_reacted _ _))

theorem steer_reacted (s : State) (r : Nat) : Reacted s (steer r s) := by
  unfold steer
  split
  · refine .ite (.refl s) ?_
    split
    · exact steerWindow_reacted _ _ _
    · exact steerPass_reacted _ _ _
    · exact faultRead_reacted _ _
  · exact .refl s

theorem reconsider_reacted (s : State) : Reacted s (reconsider s) := .foldl (fun u r => steer_reacted u r) _ s

theorem addRead_reacted (s : State) (e : ReadEntry) : Reacted s (addRead e s) := by
  unfold addRead
  exact .trans (.same rfl rfl rfl rfl rfl rfl rfl : Reacted s { s with reads := s.reads ++ [e], nextRef := s.nextRef + 1 }) (steer_reacted _ _)

/-! ## Rebuild engine -/

theorem endIfLost_reacted (s : State) (w : WinIx) : Reacted s (endIfLost w s) := .of_framed (endIfLost_framed _ _) (endIfLost_kept _ _)

theorem takeSource_reacted (s : State) : Reacted s (takeSource s) := .of_framed (takeSource_framed _) (takeSource_kept _)

theorem segmentStart_reacted (s : State) : Reacted s (segmentStart s) := by
  unfold segmentStart
  split
  · exact (modJob_reacted _ _).trans ((takeSource_reacted _).trans (endIfLost_reacted _ _))
  · exact .refl s

theorem retakeSource_reacted (s : State) : Reacted s (retakeSource s) := by
  unfold retakeSource
  split
  · refine .ite ?_ (.refl s)
    split
    · exact .ite (takeSource_reacted s) (.refl s)
    · exact endIfLost_reacted _ _
  · exact .refl s

theorem placeChunkReadsUpTo_reacted (n : Nat) (s : State) : Reacted s (placeChunkReadsUpTo n s) := by
  induction n generalizing s with
  | zero => exact .refl s
  | succ n ih =>
    unfold placeChunkReadsUpTo
    split
    · split
      · exact ((enqueue_reacted _ _ _ _ _ _ _ _).trans (modJob_reacted _ _)).trans (ih _)
      · exact .refl s
    · exact .refl s

theorem postHealth_reacted (s : State) (w : WinIx) (old : Option Health) : Reacted s (postHealth w old s) :=
  .of_framed (postChange_framed _ _ _ _) (postHealth_kept _ _ _)

theorem completeJob_reacted (s : State) : Reacted s (completeJob s) := by
  unfold completeJob
  split
  · refine .ite ?_ (.refl s)
    exact (Reacted.of_framed (makeCurrent_framed s _ _) (makeCurrent_kept s _ _)).trans
      ((setJobs_reacted _ _).trans ((post_reacted _ _).trans ((post_reacted _ _).trans (postHealth_reacted _ _ _))))
  · exact .refl s

theorem startJob_reacted (s : State) (j : Job) : Reacted s (startJob j s) := by
  unfold startJob
  extract_lets mode total s1 s2 s3
  have h1 : Reacted s s1 := .ite (.of_framed (makeWhole_framed _ _ _) (makeWhole_kept _ _ _)) (.refl s)
  have h2 : Reacted s s2 := h1.trans ((modWin_reacted _ _ _).trans (raise_reacted _))
  have h3 : Reacted s s3 := h2.trans ((setJobs_reacted _ _).trans (post_reacted _ _))
  exact .ite (h3.trans (completeJob_reacted _)) (h3.trans (segmentStart_reacted _))

theorem startHeads_reacted (n : Nat) (s : State) : Reacted s (startHeads n s) := by
  induction n generalizing s with
  | zero => exact .refl s
  | succ n ih =>
    unfold startHeads
    split
    · exact .refl s
    · refine .ite (.refl s) ?_
      split
      · exact ((setJobs_reacted _ _).trans (post_reacted _ _)).trans (ih _)
      · exact (startJob_reacted _ _).trans (ih _)

theorem startAttempt_reacted (s : State) : Reacted s (startAttempt s) := startHeads_reacted _ s

theorem placeChunkReads_reacted (s : State) : Reacted s (placeChunkReads s) := placeChunkReadsUpTo_reacted _ s

/-! ## Request link port -/

theorem faultHead_reacted (s : State) (r : Request) : Reacted s (faultHead r s) := setLink_reacted s _ rfl
theorem rejectHead_reacted (s : State) (r : Request) : Reacted s (rejectHead r s) := setLink_reacted s _ rfl
theorem handOver_reacted (s : State) (r : Request) : Reacted s (handOver r s) := setLink_reacted s _ rfl
theorem stall_reacted (s : State) (c : StallCause) : Reacted s (stall c s) := setLink_reacted s _ rfl
theorem holdHead_reacted (s : State) : Reacted s (holdHead s) := setLink_reacted s _ rfl

theorem acceptWrite_reacted (s : State) (w : WinIx) (r : Request) : Reacted s (acceptWrite w r s) := by
  unfold acceptWrite
  extract_lets e g s1
  have h1 : Reacted s s1 := addWrite_reacted s e
  refine .ite (h1.trans (.same rfl rfl rfl rfl rfl rfl rfl)) ?_
  refine h1.trans (.of_framed ?_ ?_)
  · exact (reportOpen_framed _ _ _).trans ((lagOverflow_framed _ _ _).trans ((issueWrite_framed _ _ _ _ _).trans (resumeIfDue_framed _)))
  · exact (reportOpen_kept _ _ _).trans ((lagOverflow_kept _ _ _).trans ((issueWrite_kept _ _ _ _ _).trans (resumeIfDue_kept _)))

theorem acceptPassWrite_reacted (s : State) (l : LegIx) (r : Request) : Reacted s (acceptPassWrite l r s) :=
  (addWrite_reacted s _).trans (.of_framed (placeWrite_framed _ _ _ _) (placeWrite_kept _ _ _ _))

theorem routeEnabled_reacted (s : State) (w : WinIx) (r : Request) : Reacted s (routeEnabled w r s) := by
  unfold routeEnabled
  refine .ite (faultHead_reacted _ _) ?_
  split
  · split
    · exact stall_reacted _ _
    · exact (handOver_reacted _ _).trans (acceptWrite_reacted _ _ _)
  · exact .ite (stall_reacted _ _) ((handOver_reacted _ _).trans (addRead_reacted _ _))

theorem routePass_reacted (s : State) (l : LegIx) (r : Request) : Reacted s (routePass l r s) := by
  unfold routePass
  split
  · split
    · exact stall_reacted _ _
    · exact (handOver_reacted _ _).trans (acceptPassWrite_reacted _ _ _)
  · exact .ite (stall_reacted _ _) ((handOver_reacted _ _).trans (addRead_reacted _ _))

theorem route_reacted (s : State) (r : Request) : Reacted s (route r s) := by
  unfold route
  split
  · exact .ite (faultHead_reacted _ _) (routeEnabled_reacted _ _ _)
  · split
    · exact .ite (routePass_reacted _ _ _) (faultHead_reacted _ _)
    · exact faultHead_reacted _ _

theorem present_reacted (s : State) : Reacted s (present s) := by
  unfold present
  split
  · exact .ite (holdHead_reacted _) (.ite (stall_reacted _ _) (.ite (rejectHead_reacted _ _) (route_reacted _ _)))
  · exact .refl s

theorem retryHead_reacted (s : State) : Reacted s (retryHead s) := .ite (present_reacted s) (.refl s)

theorem retryIfDue_reacted (s : State) : Reacted s (retryIfDue s) :=
  .ite ((setNotice_reacted s _).trans (retryHead_reacted _)) (.refl s)

/-! ## Rounds -/

theorem testDrain_reacted (s : State) (w : WinIx) : Reacted s (testDrain w s) := by
  unfold testDrain completeDrain
  exact .ite (.same rfl rfl rfl rfl rfl rfl rfl) (.refl s)

theorem reopen_reacted (s : State) : Reacted s (reopen s) := .same rfl rfl rfl rfl rfl rfl rfl

theorem finishReset_reacted (s : State) : Reacted s (finishReset s) :=
  .ite ((post_reacted s _).trans ((reopen_reacted _).trans ((present_reacted _).trans (raiseWork_reacted _)))) (.refl s)

theorem reactRound_reacted (s : State) : Reacted s (reactRound s) := by
  unfold reactRound
  have h1 : Reacted s (resumeIfDue s) := .of_framed (resumeIfDue_framed s) (resumeIfDue_kept s)
  have h2 := h1.trans ((retryIfDue_reacted _).trans ((reconsider_reacted _).trans (retakeSource_reacted _)))
  have h3 := h2.trans ((placeChunkReads_reacted _).trans (startAttempt_reacted _))
  exact h3.trans ((Reacted.foldl (fun u w => testDrain_reacted u w) allWindows _).trans (finishReset_reacted _))

theorem reactUpTo_reacted (n : Nat) (s : State) : Reacted s (reactUpTo n s) := by
  induction n generalizing s with
  | zero => exact .refl s
  | succ n ih => exact .ite (((setNotice_reacted s _).trans (reactRound_reacted _)).trans (ih _)) (.refl s)

/-- The head that the intake takes leaves the requests that wait. -/
theorem takeNext_untouched (s : State) : Untouched s (takeNext s) := by
  unfold takeNext
  split
  · exact .refl s
  next r rs _ =>
    exact Untouched.trans (t := { s with link := { s.link with head := some r, waiting := rs } })
      ⟨rfl, rfl, rfl, rfl, rfl, fun _ => rfl⟩ (present_reacted _).toUntouched

theorem intake_untouched (n : Nat) (s : State) : Untouched s (intake n s) := by
  induction n generalizing s with
  | zero => exact .refl s
  | succ n ih =>
    unfold intake
    split
    · exact ((takeNext_untouched s).trans (reactUpTo_reacted 64 _).toUntouched).trans (ih _)
    · exact .refl s

theorem react_untouched (s : State) : Untouched s (react s) := (reactUpTo_reacted 64 s).toUntouched.trans (intake_untouched _ _)

/-- Settles O3: a quiet device that can take no request has no reactions (`react_quiet`), and reactions leave alone what `Untouched` says. -/
theorem reactionsKeepWhatTheyDoNotOwn : Obligations.ReactionsKeepWhatTheyDoNotOwn := by
  refine ⟨fun s hn hw => react_quiet hn ?_, fun s => ?_⟩
  · rcases hw with hw | hh | hr
    · exact .inr hw
    · exact .inl (by cases h : s.link.head <;> simp_all [mayTake])
    · exact .inl (by simp [mayTake, hr])
  · obtain ⟨hpass, hjob, hreset, hchoices, hport, hconf⟩ := react_untouched s
    refine ⟨hpass, hjob, hreset, hchoices, hport, fun l => ?_⟩
    have field {α : Type} (f : LegPort → α) : f ((react s).leg l).conf = f (s.leg l).conf := congrArg f (hconf l)
    exact ⟨field (·.state), field (·.identity), field (·.ready), field (·.timeout), field (·.nextNumber), field (·.arbiter),
      field (·.failures), field (·.identityTimer)⟩

end Sys2Proof.Machine
end

section
/-! SUPPORT. Management frames (R177 to R182, R193): every command is its frame, received; what carrying one out can give; frames that the port
does not hear; chip select. -/

namespace Sys2Proof.Machine

open Sys2Proof.Safety

/-! ## A command is its frame -/

/-- A management command is the receipt of its frame, whose first byte is not 0xFF. -/
theorem exec_of_commandFrame {c : Instr} {code q : Byte} {args : List Byte} (h : commandFrame c = some (code, q, args)) (s : State) :
    exec c s = .next (receiveFrame code q args s) ∧ code ≠ 0xFF := by
  cases c
  case unknownCommand k p a =>
    simp only [commandFrame, Option.ite_none_left_eq_some, Bool.or_eq_true, not_or, beq_iff_eq, Option.some.injEq, Prod.mk.injEq] at h
    obtain ⟨⟨-, hk⟩, rfl, rfl, rfl⟩ := h
    exact ⟨rfl, hk⟩
  all_goals cases h
  all_goals exact ⟨rfl, by decide⟩

/-- A command whose frame the port hears is carried out and answered. -/
theorem exec_heard {s : State} {c : Instr} {code q : Byte} {args : List Byte} (h : commandFrame c = some (code, q, args))
    (ha : args.length ≤ 48) (hl : Listening s) :
    exec c s = .next (respond q (carryOut code args (heard code q args s))) := by
  obtain ⟨hexec, hff⟩ := exec_of_commandFrame h s
  rw [hexec, receiveFrame_heard hl hff ha]

@[simp] theorem heard_inReset (code q : Byte) (args : List Byte) (s : State) : inReset (heard code q args s) = inReset s := rfl

/-! ## What carrying out a command can give (R181) -/

/-- Only a status DONE carries results, and only DONE and ACCEPTED come with a change of state. -/
def Carried.Sound (c : Carried) (s : State) : Prop :=
  (c.status ≠ .done → c.results = []) ∧ (c.status ≠ .done → c.status ≠ .accepted → c.state = s)

theorem sound_refuse (st : Status) (s : State) : (refuse st s).Sound s := ⟨fun _ => rfl, fun _ _ => rfl⟩

theorem sound_of_done {c : Carried} {s : State} (h : c.status = .done) : c.Sound s :=
  ⟨fun hn => absurd h hn, fun hn => absurd h hn⟩

theorem sound_finish_accepted (s t : State) : (finish .accepted t).Sound s := ⟨fun _ => rfl, fun _ ha => absurd rfl ha⟩

/-- Splits a command into its answers; each is a refusal, an answer DONE, or ACCEPTED. -/
theorem Carried.Sound.ite {s : State} {p : Prop} [Decidable p] {a b : Carried} (ha : a.Sound s) (hb : b.Sound s) :
    (if p then a else b).Sound s := by
  split
  · exact ha
  · exact hb

theorem carryOut_sound (code : Byte) (args : List Byte) (s : State) : (carryOut code args s).Sound s := by
  have refused (st : Status) : (refuse st s).Sound s := sound_refuse st s
  have done {c : Carried} (h : c.status = .done) : c.Sound s := sound_of_done h
  unfold carryOut
  refine .ite ?ident <| .ite ?statusGet <| .ite ?datapathReset <| .ite ?windowSet <| .ite ?windowGet <| .ite ?windowEnable <|
    .ite ?windowDisable <| .ite ?windowReseed <| .ite ?passSet <| .ite ?memberAdd <| .ite ?memberRemove <| .ite ?memberGet <|
    .ite ?legEnable <| .ite ?legDisable <| .ite ?legGet <| .ite ?legSetTimeout <| .ite ?resyncQueue <| .ite ?resyncCancel <|
    .ite ?resyncGet <| .ite ?staleCount <| .ite ?staleList <| .ite ?eventPop <| .ite ?eventConfig <| .ite ?healthRead (refused _)
  case ident => unfold cmdIdent; split <;> [exact done rfl; exact refused _]
  case statusGet => unfold cmdStatusGet; split <;> [exact done rfl; exact refused _]
  case datapathReset =>
    unfold cmdDatapathReset
    refine .ite (refused _) ?_
    split <;> [exact sound_finish_accepted _ _; exact refused _]
  case windowSet =>
    unfold cmdWindowSet
    refine .ite (refused _) ?_
    split
    · split
      · refine .ite (refused _) ?_
        split <;> [exact done rfl; exact refused _]
      · exact refused _
    · exact refused _
  case windowGet =>
    unfold cmdWindowGet
    split
    · split <;> [exact done rfl; exact refused _]
    · exact refused _
  case windowEnable =>
    unfold cmdWindowEnable
    refine .ite (refused _) ?_
    split
    · split
      · refine .ite (refused _) (.ite (refused _) (.ite (refused _) ?_))
        split <;> [exact refused _; exact done rfl]
      · exact refused _
    · exact refused _
  case windowDisable =>
    unfold cmdWindowDisable
    refine .ite (refused _) ?_
    split
    · split
      · split
        · exact refused _
        · exact refused _
        · exact .ite (sound_finish_accepted _ _) (done rfl)
      · exact refused _
    · exact refused _
  case windowReseed =>
    unfold cmdWindowReseed
    refine .ite (refused _) ?_
    split
    · split
      · refine .ite (refused _) ?_
        split
        · exact .ite (refused _) (.ite (refused _) (done rfl))
        · exact refused _
      · exact refused _
    · exact refused _
  case passSet =>
    unfold cmdPassSet
    refine .ite (refused _) ?_
    split
    · split <;> [exact done rfl; exact refused _]
    · exact refused _
  case memberAdd =>
    unfold cmdMemberAdd
    refine .ite (refused _) ?_
    split
    · split
      · exact .ite (refused _) (.ite (refused _) (.ite (refused _) (.ite (refused _) (.ite (refused _) (done rfl)))))
      · exact refused _
    · exact refused _
  case memberRemove =>
    unfold cmdMemberRemove
    refine .ite (refused _) ?_
    split
    · split
      · refine .ite (refused _) ?_
        split
        · exact .ite (refused _) (done rfl)
        · exact refused _
      · exact refused _
    · exact refused _
  case memberGet =>
    unfold cmdMemberGet
    split
    · split
      · split <;> [exact done rfl; exact refused _]
      · exact refused _
    · exact refused _
  case legEnable =>
    unfold cmdLegEnable
    refine .ite (refused _) ?_
    split
    · split <;> [exact .ite (done rfl) (refused _); exact refused _]
    · exact refused _
  case legDisable =>
    unfold cmdLegDisable
    refine .ite (refused _) ?_
    split
    · split <;> [exact done rfl; exact refused _]
    · exact refused _
  case legGet =>
    unfold cmdLegGet
    split
    · split <;> [exact done rfl; exact refused _]
    · exact refused _
  case legSetTimeout =>
    unfold cmdLegSetTimeout
    refine .ite (refused _) ?_
    split
    · split <;> [exact .ite (done rfl) (refused _); exact refused _]
    · exact refused _
  case resyncQueue =>
    unfold cmdResyncQueue
    refine .ite (refused _) ?_
    split
    · split
      · refine .ite (refused _) ?_
        split
        · exact .ite (refused _) (.ite (refused _) (.ite (refused _) (.ite (refused _) (done rfl))))
        · exact refused _
      · exact refused _
    · exact refused _
  case resyncCancel =>
    unfold cmdResyncCancel
    refine .ite (refused _) ?_
    split
    · split
      · split <;> [exact done rfl; exact refused _]
      · exact refused _
    · exact refused _
  case resyncGet => unfold cmdResyncGet; split <;> [exact done rfl; exact refused _]
  case staleCount =>
    unfold cmdStaleCount
    split
    · split
      · split <;> [exact done rfl; exact refused _]
      · exact refused _
    · exact refused _
  case staleList =>
    unfold cmdStaleList
    split
    · split
      · split <;> [exact .ite (done rfl) (refused _); exact refused _]
      · exact refused _
    · exact refused _
  case eventPop =>
    unfold cmdEventPop
    split
    · split <;> [exact done rfl; exact refused _]
    · exact refused _
  case eventConfig =>
    unfold cmdEventConfig
    split
    · split <;> [exact done rfl; exact refused _]
    · exact refused _
  case healthRead =>
    unfold cmdHealthRead
    split
    · split <;> [exact done rfl; exact refused _]
    · exact refused _

/-- Settles O7: the frame is heard, and what carrying it out gives is sound. -/
theorem everyFrameIsAnsweredOnce : Obligations.EveryFrameIsAnsweredOnce := by
  intro s c code q args hc ha hl
  obtain ⟨hresults, hstate⟩ := carryOut_sound code args (heard code q args s)
  exact ⟨_, _, _, exec_heard hc ha hl, hresults, hstate⟩

/-! ## BUSY (R181, R188) -/

/-- In a datapath reset every command marked BUSY is refused with it, whatever its arguments. -/
theorem carryOut_busy {code : Byte} (hc : code ∈ busyCodes) (args : List Byte) {s : State} (hr : inReset s = true) :
    carryOut code args s = refuse .busy s := by
  simp only [busyCodes, List.mem_cons, List.not_mem_nil, or_false] at hc
  rcases hc with rfl | rfl | rfl | rfl | rfl | rfl | rfl | rfl | rfl | rfl | rfl | rfl | rfl
  all_goals exact if_pos hr

/-- Settles O8: the frame is heard, and `carryOut_busy` gives the answer. -/
theorem datapathResetAnswersBusy : Obligations.DatapathResetAnswersBusy := by
  intro s c code q args hc hbusy ha hl hp
  rw [exec_heard hc ha hl, carryOut_busy hbusy args (by rw [heard_inReset, inReset_eq_true]; exact hp), respond_refuse]

/-! ## Frames that are not heard (R177, R178) -/

theorem length_wholeFrame (code q k : Byte) (args : List Byte) : (wholeFrame code q args k).length = args.length + 4 := by
  simp [wholeFrame]

/-- Settles O10: a deaf port takes no byte (`receive_deaf`); after the frame of the assertion bytes only take their times. -/
theorem anAssertionCarriesOneFrame : Obligations.AnAssertionCarriesOneFrame := by
  intro s c code q args hc
  obtain ⟨hexec, -⟩ := exec_of_commandFrame hc s
  rw [hexec]
  refine ⟨fun h => congrArg _ (receive_deaf h _), fun hs hr hcond => congrArg _ ?_⟩
  rw [receiveFrame, frameBytes_eq, receive, if_pos (by simp [hs, hr]), foldl_takeByte_ignored _ hcond, length_wholeFrame]

/-! ## Chip select (R180) -/

/-- Settles O11: the branches of `chipFall` and `Port.select`. -/
theorem chipSelectFallShiftsOutThePending : Obligations.ChipSelectFallShiftsOutThePending := by
  intro s early
  have hrun : exec (.chipSelectFall early) s = .next (chipFall early s) := rfl
  simp only [hrun, chipFall]
  refine ⟨fun h => ?ignored, fun hs hr hi => ?inTime, fun hs hr he hi => ?tooSoon⟩
  case ignored => rw [if_pos (by simpa using h)]
  case inTime =>
    have hlate : ¬ (early && s.port.installed) = true := by rcases hi with hi | hi <;> simp [hi]
    rw [if_neg (by simp [hs, hr]), modPort, Port.select, if_neg hlate]
  case tooSoon => rw [if_neg (by simp [hs, hr]), modPort, Port.select, if_pos (by simp [he, hi])]

/-! ## Response frames (R179, R180, R189) -/

theorem xorBytes_snoc (body : List Byte) : xorBytes (body ++ [xorBytes body]) = 0 := by
  rw [xorBytes_append]
  simp [xorBytes]

/-- Settles O13: the layout of `Response.bytes`, the codes, and the bytes that `outByte` picks. -/
theorem responseFramesAreLaidOutAndShiftedOut : Obligations.ResponseFramesAreLaidOutAndShiftedOut := by
  refine ⟨fun r => ⟨_, rfl, xorBytes_snoc _⟩, rfl, fun p k h => ?_, fun p r k h => ⟨fun hk => ?_, fun hk => ?_⟩⟩
  · simp [Port.outByte, h]
  · simp [Port.outByte, h, hk]
  · simp [Port.outByte, h, hk]

end Sys2Proof.Machine
end

section
/-! SUPPORT. The release of RESET and its guard (R163, R193), the rise of chip select (R178 to R180), and the tests of a presentation (R153). -/

namespace Sys2Proof.Machine

open Sys2Proof.Safety

/-! ## The tests of a presentation (R153) -/

theorem present_of_inReset {s : State} {r : Request} (hh : s.link.head = some r) (hr : inReset s = true) :
    present s = holdHead s := by
  simp only [present, hh, hr, if_true]

theorem present_of_tagBusy {s : State} {r : Request} (hh : s.link.head = some r) (hr : inReset s = false) (ht : tagInUse s r.tag = true) :
    present s = stall .tagBusy s := by
  simp only [present, hh, hr, ht, if_true, Bool.false_eq_true, if_false]

theorem present_of_malformed {s : State} {r : Request} (hh : s.link.head = some r) (hr : inReset s = false)
    (ht : tagInUse s r.tag = false) (hm : isMalformed r = true) : present s = rejectHead r s := by
  simp only [present, hh, hr, ht, hm, if_true, Bool.false_eq_true, if_false]

theorem present_of_wellFormed {s : State} {r : Request} (hh : s.link.head = some r) (hr : inReset s = false)
    (ht : tagInUse s r.tag = false) (hm : isMalformed r = false) : present s = route r s := by
  simp only [present, hh, hr, ht, hm, Bool.false_eq_true, if_false]

theorem route_of_noWindow {s : State} {r : Request} (hw : lookupWindow s r.addr.toNat = none) (hp : s.passLeg = none) :
    route r s = faultHead r s := by
  simp only [route, hw, hp]

theorem lookupWindow_of_disabled {s : State} (h : ∀ w, (s.win w).state = .disabled) (a : Nat) : lookupWindow s a = none := by
  simp [lookupWindow, h]

/-! ## Reactions to one waiting request -/

/-- A quiet device without head takes the one request that waits; if its presentation brings nothing about, that is all. -/
theorem react_one {s : State} {r : Request} (hn : s.notice.any = false) (hm : mayTake s = true) (hw : s.link.waiting = [r])
    (ht : (takeNext s).notice.any = false) : react s = takeNext s := by
  simp only [react, reactUpTo_quiet _ hn, hw, List.length_singleton, intake, hm, if_true, reactUpTo_quiet _ ht]

/-! ## The release of RESET -/

/-- A first request after the release: FAULT, or REJECT if it is malformed. -/
theorem react_coldReset {s : State} {r : Request} (hw : s.link.waiting = [r]) :
    react (coldReset s) = { coldReset s with link := { Link.reset with
      tags := [{ tag := r.tag, due := if isMalformed r then .reject else dueFor r }]
      answers := if isMalformed r then [.reject r.tag r.kind] else faultItems r } } := by
  have htake : takeNext (coldReset s) = present { coldReset s with link := { Link.reset with head := some r } } := by
    have hwait : (coldReset s).link.waiting = [r] := hw
    simp only [takeNext, hwait]
    rfl
  have hpresent : takeNext (coldReset s) = { coldReset s with link := { Link.reset with
      tags := [{ tag := r.tag, due := if isMalformed r then .reject else dueFor r }]
      answers := if isMalformed r then [.reject r.tag r.kind] else faultItems r } } := by
    rw [htake]
    by_cases hm : isMalformed r = true
    · rw [present_of_malformed rfl rfl rfl hm, if_pos hm, if_pos hm]; rfl
    · have hroute := route_of_noWindow (s := { coldReset s with link := { Link.reset with head := some r } }) (r := r)
        (lookupWindow_of_disabled reset_state _) rfl
      rw [present_of_wellFormed rfl rfl rfl (by simpa using hm), hroute, if_neg hm, if_neg hm]
      rfl
  rw [react_one (s := coldReset s) rfl rfl hw (by rw [hpresent]; rfl), hpresent]
where
  /-- Every window is DISABLED at its cold-reset value. -/
  reset_state (w : WinIx) : (State.reset.win w).state = .disabled := by rw [reset_win]; rfl

/-- Settles O6: `coldReset` and its reactions, the frames that a port under the guard takes in, and `endGuard`. -/
theorem resetReleaseStartsFreshUnderTheGuard : Obligations.ResetReleaseStartsFreshUnderTheGuard := by
  have release {s : State} (h : s.resetAsserted = true) : exec .resetRelease s = .next (react (coldReset s)) :=
    congrArg Host.Outcome.next (if_pos h)
  refine ⟨fun s h => release h, fun s h hw => ?idle, fun s r h hw => ?first, fun s h => ?released, rfl,
    fun s c code q args hc ha hl => ?frame, fun s code q k args hx ha hl => ?badCheck, fun s h => ?ends, fun s h => ?held⟩
  case idle =>
    rw [release h, react_quiet (s := coldReset s) rfl (.inr hw)]
    simp only [coldReset, hw]
    rfl
  case first => rw [release h, react_coldReset hw]; rfl
  case released => exact congrArg Host.Outcome.next (if_neg (by simp [h]))
  case frame =>
    obtain ⟨hexec, hx⟩ := exec_of_commandFrame hc s
    rw [hexec, receiveFrame, frameBytes_eq, receive_inGuard hl hx ha]
    rfl
  case badCheck => exact congrArg Host.Outcome.next (receive_inGuard hl hx ha)
  case ends => exact congrArg Host.Outcome.next (if_neg (by simp [h]))
  case held => exact congrArg Host.Outcome.next (if_pos h)

/-! ## The rise of chip select -/

/-- An open frame fails: the new response of the rise is `newAtRise`. -/
theorem failOpenFrame_eq (s : State) : failOpenFrame s = { s with port := { s.port with newResponse := newAtRise s } } := by
  unfold failOpenFrame newAtRise
  by_cases hg : s.port.guard = true
  · rw [if_pos hg, if_neg (by simp [hg])]
  · by_cases hc : s.port.condition = .receiving ∨ s.port.condition = .overlong
    · rw [if_neg hg, if_pos (by simpa using hc), if_pos ⟨hc, by simpa using hg⟩]; rfl
    · rw [if_neg hg, if_neg (by simpa using hc), if_neg (by simp [hc])]

/-- The rise of a selected port, with the bytes of its own taken in first. -/
theorem chipRise_selected {s : State} (hs : s.port.selected = true) (hr : s.resetAsserted = false) (bs : List Byte) :
    chipRise bs s = modPort Port.deselect (failOpenFrame (bs.foldl takeByte s)) := by
  simp [chipRise, receive, hs, hr]

/-- Bytes of the rise's own are as good as taken in before it. -/
theorem exec_rise_of_taken {s u : State} {bs : List Byte} (hs : s.port.selected = true) (hr : s.resetAsserted = false)
    (hu : bs.foldl takeByte s = u) (hus : u.port.selected = true) (hur : u.resetAsserted = false) :
    exec (.chipSelectRise bs) s = exec (.chipSelectRise []) u := by
  refine congrArg Host.Outcome.next ?_
  rw [chipRise_selected hs hr, chipRise_selected hus hur, hu]
  rfl

/-- The response pending after a rise, by the words of R180. -/
theorem pendingAfter_eq (p : Port) :
    p.pendingAfter = if p.newResponse.isSome then p.newResponse else if p.late.isSome then p.late
      else if p.shiftOut.any (fun r => decide (r.bytes.length ≤ p.byteTimes)) then none else p.pendingResponse := by
  unfold Port.pendingAfter Port.fetched
  cases p.newResponse with
  | some r => rfl
  | none => cases p.late <;> rfl

/-- A first byte 0xFF, and what follows it. -/
theorem foldl_takeByte_fetch {s : State} (hc : s.port.condition = .none) (bs : List Byte) :
    (0xFF :: bs).foldl takeByte s =
      { s with port := { s.port with condition := .fetchOnly, byteTimes := s.port.byteTimes + (bs.length + 1) } } := by
  have hfirst : takeByte s 0xFF = { s with port := { s.port with condition := .fetchOnly, byteTimes := s.port.byteTimes + 1 } } := by
    simp [takeByte, hc, modPort]
  rw [List.foldl_cons, hfirst, foldl_takeByte_ignored _ (.inr (.inl rfl))]
  simp only [Nat.add_assoc, Nat.add_comm 1]

/-- A third byte over 48 makes the frame OVERLONG. -/
theorem takeByte_overlong {s : State} {c q n : Byte} (hc : s.port.condition = .receiving) (hb : s.port.buffer = [c, q])
    (hn : 48 < n.toNat) :
    takeByte s n =
      { s with port := { s.port with buffer := [c, q, n], condition := .overlong, byteTimes := s.port.byteTimes + 1 } } := by
  have hlong : bufferOverlong [c, q, n] = true := by simpa [bufferOverlong, Config.maxArguments] using hn
  simp [takeByte, storeByte, hc, hb, modPort, hlong]

theorem foldl_takeByte_overlong {s : State} {c q n : Byte} (hc : s.port.condition = .none) (hb : s.port.buffer = []) (hx : c ≠ 0xFF)
    (hn : 48 < n.toNat) (bs : List Byte) :
    (c :: q :: n :: bs).foldl takeByte s = { s with port := { s.port with
      buffer := [c, q, n], condition := .overlong, byteTimes := s.port.byteTimes + (bs.length + 3) } } := by
  rw [List.foldl_cons, takeByte_first hc hb hx, List.foldl_cons, takeByte_second rfl rfl, List.foldl_cons,
    takeByte_overlong rfl rfl hn, foldl_takeByte_ignored _ (.inr (.inr rfl))]
  simp only [Nat.add_assoc]
  rw [show 1 + (1 + (1 + bs.length)) = bs.length + 3 by omega]

/-- A third byte up to 48 leaves the frame RECEIVING. -/
theorem takeByte_third {s : State} {c q n : Byte} (hc : s.port.condition = .receiving) (hb : s.port.buffer = [c, q])
    (hn : n.toNat ≤ 48) :
    takeByte s n =
      { s with port := { s.port with buffer := [c, q, n], condition := .receiving, byteTimes := s.port.byteTimes + 1 } } := by
  have hlong : bufferOverlong [c, q, n] = false := by simpa [bufferOverlong, Config.maxArguments] using hn
  have hcomplete : bufferComplete [c, q, n] = false := by simp [bufferComplete]; omega
  have hbuf : s.port.buffer ++ [n] = [c, q, n] := by rw [hb]; rfl
  rw [takeByte_more hc (hbuf ▸ hlong) (hbuf ▸ hcomplete), hbuf]

/-- Bytes that leave the frame incomplete are stored. -/
theorem foldl_takeByte_open {s : State} {c : Byte} {bs : List Byte} (hc : s.port.condition = .none) (hb : s.port.buffer = [])
    (hx : c ≠ 0xFF) (hopen : bs.length < 2 ∨ ((bs.getD 1 0).toNat ≤ 48 ∧ bs.length < (bs.getD 1 0).toNat + 3)) :
    (c :: bs).foldl takeByte s = { s with port := { s.port with
      buffer := c :: bs, condition := .receiving, byteTimes := s.port.byteTimes + (bs.length + 1) } } := by
  rw [List.foldl_cons, takeByte_first hc hb hx]
  match bs, hopen with
  | [], _ => rfl
  | [q], _ => rw [List.foldl_cons, takeByte_second rfl rfl]; rfl
  | q :: n :: rest, hopen =>
    obtain ⟨hn, hl⟩ : n.toNat ≤ 48 ∧ rest.length < n.toNat + 1 := by
      rcases hopen with hopen | hopen
      · simp at hopen
      · simpa using hopen
    rw [List.foldl_cons, takeByte_second rfl rfl, List.foldl_cons, takeByte_third rfl rfl hn,
      foldl_takeByte_args rest rfl (by simp) (by simpa using hn) (by simp; omega)]
    simp only [List.cons_append, List.nil_append, List.length_cons, Nat.add_assoc]
    rw [show 1 + (1 + (1 + rest.length)) = rest.length + (1 + (1 + 1)) by omega]

/-- Settles O12: the rise of an open frame by `failOpenFrame_eq` and `pendingAfter_eq`, the bytes of its own by the lemmas above. -/
theorem chipSelectRiseInstallsTheResponse : Obligations.ChipSelectRiseInstallsTheResponse := by
  refine ⟨fun s h bs => ?ignored, fun s hs hr => ?rise, fun s bs hs hr hc => ?fetch, fun s code q n bs hs hr hc hb hx hn => ?overlong,
    fun s code bs hs hr hc hb hx hopen => ?openFrame⟩
  case ignored => exact congrArg Host.Outcome.next (if_neg (by rcases h with h | h <;> simp [h]))
  case rise =>
    refine congrArg Host.Outcome.next ?_
    rw [chipRise_selected hs hr, List.foldl_nil, failOpenFrame_eq]
    simp only [modPort, Port.deselect, pendingAfter_eq]
  case fetch => exact exec_rise_of_taken hs hr (foldl_takeByte_fetch hc bs) hs hr
  case overlong => exact exec_rise_of_taken hs hr (foldl_takeByte_overlong hc hb hx hn bs) hs hr
  case openFrame => exact exec_rise_of_taken hs hr (foldl_takeByte_open hc hb hx hopen) hs hr

end Sys2Proof.Machine
end

section
/-! SUPPORT. Argument bytes that name no value, wrong argument lengths, unknown codes and bad check bytes (R179, R181, R182 note 1). -/

namespace Sys2Proof.Machine

open Sys2Proof.Safety

/-! ## What an argument byte that is taken lies within -/

theorem winArg_le {b : Byte} {w : WinIx} (h : winArg b = some w) : b.toNat ≤ 15 := by
  by_contra hb
  rw [winArg_eq_none (by omega)] at h
  cases h

theorem legArg_le {b : Byte} {l : LegIx} (h : legArg b = some l) : b.toNat ≤ 3 := by
  by_contra hb
  rw [legArg_eq_none (by omega)] at h
  cases h

theorem seedArg_le {b : Byte} {x : Seed} (h : seedArg b = some x) : b = 0xFF ∨ b.toNat ≤ 3 := by
  simp only [seedArg, beq_iff_eq] at h
  split_ifs at h with hb
  · exact .inl hb
  · obtain ⟨l, hl, -⟩ := Option.map_eq_some_iff.mp h
    exact .inr (legArg_le hl)

theorem passArg_le {b : Byte} {x : Option LegIx} (h : passArg b = some x) : b = 0xFF ∨ b.toNat ≤ 3 := by
  simp only [passArg, beq_iff_eq] at h
  split_ifs at h with hb
  · exact .inl hb
  · obtain ⟨l, hl, -⟩ := Option.map_eq_some_iff.mp h
    exact .inr (legArg_le hl)

theorem modeArg_le {b : Byte} {m : JobMode} (h : modeArg b = some m) : b.toNat ≤ 2 := by
  simp only [modeArg, beq_iff_eq] at h
  split_ifs at h with h0 h1 h2 <;> simp [*]

theorem enableArg_le {b : Byte} {x : Bool} (h : enableArg b = some x) : b.toNat ≤ 1 := by
  simp only [enableArg, beq_iff_eq] at h
  split_ifs at h with h0 h1 <;> simp [*]

/-- The mask that two bytes carry, least significant first, is their concatenation. -/
theorem ofNat_leNat_two (lo hi : Byte) : BitVec.ofNat 16 (leNat [lo, hi]) = hi ++ lo := by
  refine BitVec.eq_of_toNat_eq ?_
  have hlo := lo.isLt
  have hhi := hi.isLt
  rw [BitVec.toNat_append, ← Nat.shiftLeft_add_eq_or_of_lt lo.isLt]
  simp only [leNat, BitVec.toNat_ofNat, Nat.shiftLeft_eq]
  omega

theorem byte_of_highNibble (b : Byte) : b &&& 0xF0 = 0 → b.toNat ≤ 15 := by
  revert b; decide

theorem byte_of_lowBit (b : Byte) : b &&& 0x01 = 0 → b.getLsbD 0 = false := by
  revert b; decide

theorem append_eq_zero {a b : Byte} (h : a ++ b = (0 : BitVec 16)) : a = 0 ∧ b = 0 := by
  have hnat : a.toNat <<< 8 ||| b.toNat = 0 := by
    rw [← BitVec.toNat_append, h]; rfl
  rw [← Nat.shiftLeft_add_eq_or_of_lt b.isLt, Nat.shiftLeft_eq] at hnat
  exact ⟨BitVec.eq_of_toNat_eq (by simp; omega), BitVec.eq_of_toNat_eq (by simp; omega)⟩

theorem maskArg_le {lo hi : Byte} {m : BitVec 16} (h : maskArg lo hi = some m) : lo.getLsbD 0 = false ∧ hi.toNat ≤ 15 := by
  simp only [maskArg, beq_iff_eq, ofNat_leNat_two] at h
  split_ifs at h with hm
  have hsplit : (hi &&& 0xF0) ++ (lo &&& 0x01) = (0 : BitVec 16) := by
    rw [← hm, show (0xF001 : BitVec 16) = (0xF0 : Byte) ++ (0x01 : Byte) by decide, ← BitVec.and_append]
  obtain ⟨hhi, hlo⟩ := append_eq_zero hsplit
  exact ⟨byte_of_lowBit lo hlo, byte_of_highNibble hi hhi⟩

theorem aligned_iff {a : Nat} : aligned a = true ↔ a % 65536 = 0 := by simp [aligned, Config.segmentBytes]

/-! ## The commands: each taken argument contradicts a bad one -/

section
variable {args : List Byte} {s : State}

theorem cmdIdent_badArgs (h : args.length ≠ 0) : cmdIdent args s = refuse .arg s := by
  cases args with
  | nil => simp at h
  | cons => rfl

theorem cmdStatusGet_badArgs (h : args.length ≠ 0) : cmdStatusGet args s = refuse .arg s := by
  cases args with
  | nil => simp at h
  | cons => rfl

theorem cmdDatapathReset_badArgs (hr : inReset s = false) (h : args.length ≠ 0) : cmdDatapathReset args s = refuse .arg s := by
  unfold cmdDatapathReset
  rw [if_neg (by simp [hr])]
  cases args with
  | nil => simp at h
  | cons => rfl

theorem cmdResyncGet_badArgs (h : args.length ≠ 0) : cmdResyncGet args s = refuse .arg s := by
  cases args with
  | nil => simp at h
  | cons => rfl

theorem cmdEventPop_badArgs (h : args.length ≠ 0) : cmdEventPop args s = refuse .arg s := by
  cases args with
  | nil => simp at h
  | cons => rfl

theorem cmdWindowGet_badArgs (h : args.length ≠ 1 ∨ BadOperand 0x11 args) : cmdWindowGet args s = refuse .arg s := by
  unfold cmdWindowGet
  split
  · split
    · have := winArg_le ‹_›
      simp [BadOperand] at h; omega
    · rfl
  · rfl

theorem cmdWindowEnable_badArgs (hr : inReset s = false) (h : args.length ≠ 2 ∨ BadOperand 0x12 args) :
    cmdWindowEnable args s = refuse .arg s := by
  unfold cmdWindowEnable
  rw [if_neg (by simp [hr])]
  split
  · split
    · have hw := winArg_le ‹_›
      have hl := seedArg_le ‹_›
      simp [BadOperand] at h
      rcases hl with rfl | hl
      · simp at h; omega
      · omega
    · rfl
  · rfl

theorem cmdWindowDisable_badArgs (hr : inReset s = false) (h : args.length ≠ 1 ∨ BadOperand 0x13 args) :
    cmdWindowDisable args s = refuse .arg s := by
  unfold cmdWindowDisable
  rw [if_neg (by simp [hr])]
  split
  · split
    · have := winArg_le ‹_›
      simp [BadOperand] at h; omega
    · rfl
  · rfl

theorem cmdWindowReseed_badArgs (hr : inReset s = false) (h : args.length ≠ 2 ∨ BadOperand 0x14 args) :
    cmdWindowReseed args s = refuse .arg s := by
  unfold cmdWindowReseed
  rw [if_neg (by simp [hr])]
  split
  · split
    · have hw := winArg_le ‹_›
      have hl := legArg_le ‹_›
      simp [BadOperand] at h; omega
    · rfl
  · rfl

theorem cmdPassSet_badArgs (hr : inReset s = false) (h : args.length ≠ 1 ∨ BadOperand 0x15 args) :
    cmdPassSet args s = refuse .arg s := by
  unfold cmdPassSet
  rw [if_neg (by simp [hr])]
  split
  · split
    · have hl := passArg_le ‹_›
      simp [BadOperand] at h
      rcases hl with rfl | hl
      · simp at h
      · omega
    · rfl
  · rfl

theorem cmdMemberAdd_badArgs (hr : inReset s = false) (h : args.length ≠ 8 ∨ BadOperand 0x20 args) :
    cmdMemberAdd args s = refuse .arg s := by
  unfold cmdMemberAdd
  rw [if_neg (by simp [hr])]
  split
  · rename_i wb lb bb
    split
    · have hw := winArg_le ‹_›
      have hl := legArg_le ‹_›
      have hbase : (bb.length != 6 || !aligned (leNat bb)) = true := by
        by_contra hgood
        simp [aligned_iff] at hgood
        simp [BadOperand] at h
        omega
      rw [if_pos hbase]
    · rfl
  · rfl

theorem cmdMemberRemove_badArgs (hr : inReset s = false) (h : args.length ≠ 2 ∨ BadOperand 0x21 args) :
    cmdMemberRemove args s = refuse .arg s := by
  unfold cmdMemberRemove
  rw [if_neg (by simp [hr])]
  split
  · split
    · have hw := winArg_le ‹_›
      have hl := legArg_le ‹_›
      simp [BadOperand] at h; omega
    · rfl
  · rfl

theorem cmdMemberGet_badArgs (h : args.length ≠ 2 ∨ BadOperand 0x22 args) : cmdMemberGet args s = refuse .arg s := by
  unfold cmdMemberGet
  split
  · split
    · have hw := winArg_le ‹_›
      have hl := legArg_le ‹_›
      simp [BadOperand] at h; omega
    · rfl
  · rfl

theorem cmdLegEnable_badArgs (hr : inReset s = false) (h : args.length ≠ 1 ∨ BadOperand 0x30 args) :
    cmdLegEnable args s = refuse .arg s := by
  unfold cmdLegEnable
  rw [if_neg (by simp [hr])]
  split
  · split
    · have := legArg_le ‹_›
      simp [BadOperand] at h; omega
    · rfl
  · rfl

theorem cmdLegDisable_badArgs (hr : inReset s = false) (h : args.length ≠ 1 ∨ BadOperand 0x31 args) :
    cmdLegDisable args s = refuse .arg s := by
  unfold cmdLegDisable
  rw [if_neg (by simp [hr])]
  split
  · split
    · have := legArg_le ‹_›
      simp [BadOperand] at h; omega
    · rfl
  · rfl

theorem cmdLegGet_badArgs (h : args.length ≠ 1 ∨ BadOperand 0x32 args) : cmdLegGet args s = refuse .arg s := by
  unfold cmdLegGet
  split
  · split
    · have := legArg_le ‹_›
      simp [BadOperand] at h; omega
    · rfl
  · rfl

theorem cmdLegSetTimeout_badArgs (hr : inReset s = false) (h : args.length ≠ 3 ∨ BadOperand 0x33 args) :
    cmdLegSetTimeout args s = refuse .arg s := by
  unfold cmdLegSetTimeout
  rw [if_neg (by simp [hr])]
  split
  · rename_i lb lo hi
    split
    · have hl := legArg_le ‹_›
      have hrange : ¬ (1 ≤ leNat [lo, hi] && leNat [lo, hi] ≤ Config.maxTimeout) = true := by
        rw [Bool.and_eq_true, decide_eq_true_iff, decide_eq_true_iff]
        rintro ⟨hmin, hmax⟩
        have hmax : leNat [lo, hi] ≤ 4095 := hmax
        simp [BadOperand] at h
        omega
      rw [if_neg hrange]
    · rfl
  · rfl

theorem cmdResyncQueue_badArgs (hr : inReset s = false) (h : args.length ≠ 3 ∨ BadOperand 0x40 args) :
    cmdResyncQueue args s = refuse .arg s := by
  unfold cmdResyncQueue
  rw [if_neg (by simp [hr])]
  split
  · split
    · have hw := winArg_le ‹_›
      have hl := legArg_le ‹_›
      have hm := modeArg_le ‹_›
      simp [BadOperand] at h; omega
    · rfl
  · rfl

theorem cmdResyncCancel_badArgs (hr : inReset s = false) (h : args.length ≠ 2 ∨ BadOperand 0x41 args) :
    cmdResyncCancel args s = refuse .arg s := by
  unfold cmdResyncCancel
  rw [if_neg (by simp [hr])]
  split
  · split
    · have hw := winArg_le ‹_›
      have hl := legArg_le ‹_›
      simp [BadOperand] at h; omega
    · rfl
  · rfl

theorem cmdStaleCount_badArgs (h : args.length ≠ 2 ∨ BadOperand 0x50 args) : cmdStaleCount args s = refuse .arg s := by
  unfold cmdStaleCount
  split
  · split
    · have hw := winArg_le ‹_›
      have hl := legArg_le ‹_›
      simp [BadOperand] at h; omega
    · rfl
  · rfl

theorem cmdStaleList_badArgs (h : args.length ≠ 6 ∨ BadOperand 0x51 args) : cmdStaleList args s = refuse .arg s := by
  unfold cmdStaleList
  split
  · rename_i wb lb b0 b1 b2 b3
    split
    · have hw := winArg_le ‹_›
      have hl := legArg_le ‹_›
      have hstart : ¬ leNat [b0, b1, b2, b3] < Config.maxWindowSize := by
        simp [BadOperand] at h
        simp [Config.maxWindowSize]
        omega
      split
      · rw [if_neg hstart]
      · rfl
    · rfl
  · rfl

theorem cmdEventConfig_badArgs (h : args.length ≠ 3 ∨ BadOperand 0x61 args) : cmdEventConfig args s = refuse .arg s := by
  unfold cmdEventConfig
  split
  · split
    · have he := enableArg_le ‹_›
      obtain ⟨hlo, hhi⟩ := maskArg_le ‹_›
      simp only [BitVec.getLsbD_eq_getElem (by decide : 0 < 8)] at hlo
      simp [BadOperand, hlo] at h; omega
    · rfl
  · rfl

theorem cmdHealthRead_badArgs (h : args.length ≠ 1 ∨ BadOperand 0x62 args) : cmdHealthRead args s = refuse .arg s := by
  unfold cmdHealthRead
  split
  · split
    · have := legArg_le ‹_›
      simp [BadOperand] at h; omega
    · rfl
  · rfl

end

/-! ## The frames -/

/-- The codes by their argument lengths (R182). -/
theorem argumentLength_cases {code : Byte} {n : Nat} (h : argumentLength code = some n) :
    (n = 0 ∧ code ∈ [(0x01 : Byte), 0x02, 0x03, 0x42, 0x60]) ∨
    (n = 1 ∧ code ∈ [(0x11 : Byte), 0x13, 0x15, 0x30, 0x31, 0x32, 0x62]) ∨
    (n = 2 ∧ code ∈ [(0x12 : Byte), 0x14, 0x21, 0x22, 0x41, 0x50]) ∨
    (n = 3 ∧ code ∈ [(0x33 : Byte), 0x40, 0x61]) ∨ (n = 6 ∧ code = 0x51) ∨ (n = 8 ∧ code = 0x20) := by
  simp only [argumentLength, List.contains_iff_mem, beq_iff_eq] at h
  split_ifs at h with h0 h1 h2 h3 h6 h8 <;> cases h <;> simp only [*, true_and, true_or, or_true]

/-- A wrong length or a bad operand is refused with ARG, unless a datapath reset answers BUSY. -/
theorem carryOut_badArgs {code : Byte} {args : List Byte} {s : State} {n : Nat} (hn : argumentLength code = some n)
    (hr : code ∈ busyCodes → inReset s = false) (h : args.length ≠ n ∨ BadOperand code args) :
    carryOut code args s = refuse .arg s := by
  rcases argumentLength_cases hn with ⟨rfl, hc⟩ | ⟨rfl, hc⟩ | ⟨rfl, hc⟩ | ⟨rfl, hc⟩ | ⟨rfl, rfl⟩ | ⟨rfl, rfl⟩
  · simp only [List.mem_cons, List.not_mem_nil, or_false] at hc
    rcases hc with rfl | rfl | rfl | rfl | rfl <;> replace h : args.length ≠ 0 := by simpa [BadOperand] using h
    · exact cmdIdent_badArgs h
    · exact cmdStatusGet_badArgs h
    · exact cmdDatapathReset_badArgs (hr (by decide)) h
    · exact cmdResyncGet_badArgs h
    · exact cmdEventPop_badArgs h
  · simp only [List.mem_cons, List.not_mem_nil, or_false] at hc
    rcases hc with rfl | rfl | rfl | rfl | rfl | rfl | rfl
    · exact cmdWindowGet_badArgs h
    · exact cmdWindowDisable_badArgs (hr (by decide)) h
    · exact cmdPassSet_badArgs (hr (by decide)) h
    · exact cmdLegEnable_badArgs (hr (by decide)) h
    · exact cmdLegDisable_badArgs (hr (by decide)) h
    · exact cmdLegGet_badArgs h
    · exact cmdHealthRead_badArgs h
  · simp only [List.mem_cons, List.not_mem_nil, or_false] at hc
    rcases hc with rfl | rfl | rfl | rfl | rfl | rfl
    · exact cmdWindowEnable_badArgs (hr (by decide)) h
    · exact cmdWindowReseed_badArgs (hr (by decide)) h
    · exact cmdMemberRemove_badArgs (hr (by decide)) h
    · exact cmdMemberGet_badArgs h
    · exact cmdResyncCancel_badArgs (hr (by decide)) h
    · exact cmdStaleCount_badArgs h
  · simp only [List.mem_cons, List.not_mem_nil, or_false] at hc
    rcases hc with rfl | rfl | rfl
    · exact cmdLegSetTimeout_badArgs (hr (by decide)) h
    · exact cmdResyncQueue_badArgs (hr (by decide)) h
    · exact cmdEventConfig_badArgs h
  · exact cmdStaleList_badArgs h
  · exact cmdMemberAdd_badArgs (hr (by decide)) h

/-- A code that R182 does not list is UNKNOWN. -/
theorem carryOut_unknown {code : Byte} (h : code ∉ commandCodes) (args : List Byte) (s : State) :
    carryOut code args s = refuse .unknown s := by
  simp only [commandCodes, List.mem_cons, List.not_mem_nil, or_false, not_or] at h
  simp only [carryOut, beq_iff_eq, h, if_false]

/-- Settles O9: the frame is heard; `carryOut_badArgs`, `carryOut_unknown` and `receive_badCheck` give the answers. -/
theorem badFramesAreRefused : Obligations.BadFramesAreRefused := by
  refine ⟨fun s c code q args n hc hn ha hl hbusy h => ?args, fun s code q args hc hx ha hl => ?unknown,
    fun s code q k args hx ha hl hk => ?check⟩
  case args =>
    have hr : code ∈ busyCodes → inReset (heard code q args s) = false := fun hm => inReset_eq_false.mpr (hbusy hm)
    rw [exec_heard hc ha hl, carryOut_badArgs hn hr h, respond_refuse]
  case unknown =>
    have hframe : commandFrame (.unknownCommand code q args) = some (code, q, args) := by
      simp only [commandFrame, List.contains_iff_mem, Bool.or_eq_true, beq_iff_eq, hc, hx, or_false, if_false]
    rw [exec_heard hframe ha hl, carryOut_unknown hc, respond_refuse]
  case check => exact congrArg Host.Outcome.next (receive_badCheck hl hx ha hk)

end Sys2Proof.Machine
end

section
/-! SUPPORT. WINDOW_SET and PASS_SET (R7 to R9, R157): the argument bytes of R190 and the tests of R8. -/

namespace Sys2Proof.Machine

open Sys2Proof.Safety

/-! ## The arguments of WINDOW_SET (R190) -/

/-- Member entries of 7 bytes are read back as laid out. -/
theorem memberArgs_flatMap {ms : List (Byte × Nat)} (h : ∀ m ∈ ms, m.2 < 2 ^ 48) :
    memberArgs ms.length (ms.flatMap fun m => m.1 :: leBytes 6 m.2) = ms := by
  induction ms with
  | nil => rfl
  | cons m ms ih =>
    obtain ⟨hm, hms⟩ := List.forall_mem_cons.mp h
    have hread : memberArgs (m :: ms).length ((m :: ms).flatMap fun m => m.1 :: leBytes 6 m.2) =
        (m.1, leNat (leBytes 6 m.2)) :: memberArgs ms.length (ms.flatMap fun m => m.1 :: leBytes 6 m.2) := rfl
    rw [hread, leNat_leBytes_six hm, ih hms]

theorem length_flatMap_members (ms : List (Byte × Nat)) : (ms.flatMap fun m => m.1 :: leBytes 6 m.2).length = 7 * ms.length := by
  induction ms with
  | nil => rfl
  | cons m ms ih =>
    rw [List.flatMap_cons, List.length_append, ih]
    simp
    omega

theorem length_windowSetArgs (w : Byte) (base size : Nat) (p : Byte) (ms : List (Byte × Nat)) :
    (windowSetArgs w base size p ms).length = 13 + 7 * ms.length := by
  simp only [windowSetArgs, List.cons_append, List.length_cons, List.length_append, length_leBytes, length_flatMap_members,
    List.length_nil]
  omega

/-- The arguments laid out by R190 are read back. -/
theorem windowArgs_windowSetArgs {w p : Byte} {base size : Nat} {ms : List (Byte × Nat)} (hb : base < 2 ^ 48) (hs : size < 2 ^ 32)
    (hm : ∀ m ∈ ms, m.2 < 2 ^ 48) (hl : ms.length ≤ 5) :
    windowArgs (windowSetArgs w base size p ms) = some { window := w, base := base, size := size, policy := p, members := ms } := by
  have hcount : (BitVec.ofNat 8 ms.length).toNat = ms.length := by
    rw [BitVec.toNat_ofNat]
    omega
  have hlen := length_windowSetArgs w base size p ms
  obtain ⟨rest, hargs⟩ : ∃ rest, windowSetArgs w base size p ms = w :: rest := ⟨_, rfl⟩
  have hrest : rest = leBytes 6 base ++ leBytes 4 size ++ [p, BitVec.ofNat 8 ms.length] ++ ms.flatMap fun m => m.1 :: leBytes 6 m.2 :=
    (List.cons.inj hargs).2.symm
  have hgetD : rest.getD 11 0 = BitVec.ofNat 8 ms.length := by rw [hrest]; rfl
  have hfields : leNat (rest.take 6) = base ∧ leNat ((rest.drop 6).take 4) = size ∧ rest.getD 10 0 = p ∧
      memberArgs (rest.getD 11 0).toNat (rest.drop 12) = ms := by
    refine ⟨?_, ?_, ?_, ?_⟩
    · rw [hrest]; exact leNat_leBytes_six hb
    · rw [hrest]; exact leNat_leBytes_four hs
    · rw [hrest]; rfl
    · rw [hgetD, hcount, hrest]; exact memberArgs_flatMap hm
  obtain ⟨hbase, hsize, hpolicy, hmembers⟩ := hfields
  have hlength : (w :: rest).length = 13 + 7 * ms.length := hargs ▸ hlen
  have hgood : (decide (12 ≤ rest.length) && (w :: rest).length == 13 + 7 * (rest.getD 11 0).toNat) = true := by
    rw [hgetD, hcount]
    simp only [List.length_cons] at hlength ⊢
    simp
    omega
  rw [hargs]
  simp only [windowArgs]
  rw [if_pos hgood, hbase, hsize, hpolicy, hmembers]

/-- A length that does not follow the member count is no argument list of WINDOW_SET. -/
theorem windowArgs_of_length {args : List Byte} (h : args.length ≠ 13 + 7 * (args.getD 12 0).toNat) : windowArgs args = none := by
  cases args with
  | nil => rfl
  | cons w rest =>
    have hbad : ¬ (decide (12 ≤ rest.length) && (w :: rest).length == 13 + 7 * (rest.getD 11 0).toNat) = true := by
      simp only [Bool.and_eq_true, beq_iff_eq, not_and]
      exact fun _ => h
    exact if_neg hbad

/-! ## The fields of a window record (R8) -/

theorem legArg_of_le {b : Byte} (h : b.toNat ≤ 3) : legArg b = some (Fin.ofNat 4 b.toNat) := by
  have hlt : b.toNat < 4 := by omega
  simp only [legArg, dif_pos hlt, Option.some.injEq, Fin.ext_iff, Fin.ofNat]
  omega

theorem winArg_of_le {b : Byte} (h : b.toNat ≤ 15) : winArg b = some (Fin.ofNat 16 b.toNat) := by
  have hlt : b.toNat < 16 := by omega
  simp only [winArg, dif_pos hlt, Option.some.injEq, Fin.ext_iff, Fin.ofNat]
  omega

theorem legPairs_of_le {ms : List (Byte × Nat)} (h : ∀ m ∈ ms, m.1.toNat ≤ 3) :
    legPairs ms = some (ms.map fun m => (Fin.ofNat 4 m.1.toNat, m.2)) := by
  induction ms with
  | nil => rfl
  | cons m ms ih =>
    obtain ⟨hm, hms⟩ := List.forall_mem_cons.mp h
    simp only [legPairs, legArg_of_le hm, ih hms, List.map_cons]

theorem legPairs_eq_none {ms : List (Byte × Nat)} (h : ∃ m ∈ ms, 3 < m.1.toNat) : legPairs ms = none := by
  induction ms with
  | nil => simp at h
  | cons m ms ih =>
    by_cases hm : 3 < m.1.toNat
    · simp only [legPairs, legArg_eq_none hm]
    · have hms : ∃ m ∈ ms, 3 < m.1.toNat := by simpa [hm] using h
      unfold legPairs
      rw [ih hms]
      cases legArg m.1 <;> rfl

theorem distinctLegs_iff {ps : List (LegIx × Nat)} : distinctLegs ps = true ↔ (ps.map (·.1)).Nodup := by
  induction ps with
  | nil => simp [distinctLegs]
  | cons p ps ih =>
    simp only [distinctLegs, Bool.and_eq_true, ih, List.map_cons, List.nodup_cons]
    refine and_congr_left fun _ => ?_
    simp only [Bool.not_eq_true', List.any_eq_false, beq_iff_eq, List.mem_map, not_exists, not_and]

/-- Legs are named twice by bytes up to 3 exactly when the bytes repeat. -/
theorem nodup_legs {ms : List (Byte × Nat)} (h : ∀ m ∈ ms, m.1.toNat ≤ 3) :
    (((ms.map fun m => ((Fin.ofNat 4 m.1.toNat : LegIx), m.2)).map (·.1)).Nodup ↔ (ms.map (·.1)).Nodup) := by
  have hmap : (ms.map fun m => ((Fin.ofNat 4 m.1.toNat : LegIx), m.2)).map (·.1) = (ms.map (·.1)).map fun b => Fin.ofNat 4 b.toNat := by
    simp
  rw [hmap]
  refine List.nodup_map_iff_inj_on_of_le h
where
  /-- `Fin.ofNat 4` is injective on bytes up to 3. -/
  List.nodup_map_iff_inj_on_of_le {ms : List (Byte × Nat)} (h : ∀ m ∈ ms, m.1.toNat ≤ 3) :
      (((ms.map (·.1)).map fun b => (Fin.ofNat 4 b.toNat : LegIx)).Nodup ↔ (ms.map (·.1)).Nodup) := by
    refine ⟨List.Nodup.of_map _, fun hn => hn.map_on ?_⟩
    rintro a ha b hb hab
    obtain ⟨m, hm, rfl⟩ := List.mem_map.mp ha
    obtain ⟨k, hk, rfl⟩ := List.mem_map.mp hb
    have h1 := h m hm
    have h2 := h k hk
    simp only [Fin.ofNat, Fin.mk.injEq] at hab
    exact BitVec.eq_of_toNat_eq (by omega)

/-- The policies in a policy byte (R190). -/
theorem policyArg_eq (p : Byte) :
    policyArg p = if (p.getLsbD 1 = true ∧ p.getLsbD 2 = true) ∨ 31 < p.toNat then none
      else some { write := if p.getLsbD 0 then .lagged else .sync
                  read := if p.getLsbD 1 then .rotate else if p.getLsbD 2 then .shortest else .ordered
                  lag := if p.getLsbD 3 then .demote else .stall
                  auto := p.getLsbD 4 } := by
  revert p; decide

/-- The conditions of R8 on ranges and counts that answer ARG. -/
def BadRanges (base size : Nat) (ms : List (Byte × Nat)) : Prop :=
  (base % 65536 ≠ 0 ∨ ∃ m ∈ ms, m.2 % 65536 ≠ 0) ∨ (size = 0 ∨ 16777216 < size) ∨ 2 ^ 48 < base + size * 65536 ∨ (ms = [] ∨ 4 < ms.length)

/-- The conditions of R8 on legs that answer ARG: one names no leg, or one is named twice. -/
def BadLegs (ms : List (Byte × Nat)) : Prop := (∃ m ∈ ms, 3 < m.1.toNat) ∨ ¬ (ms.map (·.1)).Nodup

/-- A policy byte that names no policies (R190). -/
def BadPolicy (p : Byte) : Prop := (p.getLsbD 1 = true ∧ p.getLsbD 2 = true) ∨ 31 < p.toNat

theorem policyArg_of_bad {p : Byte} (h : BadPolicy p) : policyArg p = none := (policyArg_eq p).trans (if_pos h)

theorem policyArg_of_good {p : Byte} (h : ¬ BadPolicy p) :
    policyArg p = some { write := if p.getLsbD 0 then .lagged else .sync
                         read := if p.getLsbD 1 then .rotate else if p.getLsbD 2 then .shortest else .ordered
                         lag := if p.getLsbD 3 then .demote else .stall
                         auto := p.getLsbD 4 } := (policyArg_eq p).trans (if_neg h)

/-- The conditions of R8 after STATE that answer ARG. -/
def BadWindow (base size : Nat) (p : Byte) (ms : List (Byte × Nat)) : Prop := BadRanges base size ms ∨ BadLegs ms ∨ BadPolicy p

/-- The record that WINDOW_SET makes of good arguments (R9). -/
def newWindow (base size : Nat) (p : Byte) (ms : List (Byte × Nat)) : Window :=
  { state := .disabled, base := base, size := size
    writePolicy := if p.getLsbD 0 then .lagged else .sync
    readPolicy := if p.getLsbD 1 then .rotate else if p.getLsbD 2 then .shortest else .ordered
    lagPolicy := if p.getLsbD 3 then .demote else .stall
    autoRebuild := p.getLsbD 4
    members := ms.map fun m => { leg := Fin.ofNat 4 m.1.toNat, base := m.2, state := none, whole := false, serial := none }
    rotate := 0 }

/-- The tests of `configured` before the member entries and the policy byte. -/
theorem configured_ranges (base size : Nat) (ms : List (Byte × Nat)) :
    (aligned base && ms.all (fun m => aligned m.2) && decide (1 ≤ size) && decide (size ≤ Config.maxWindowSize)
      && decide (base + size * Config.segmentBytes ≤ Config.addressEnd) && !ms.isEmpty && decide (ms.length ≤ Config.maxMembers)) = true ↔
    ¬ BadRanges base size ms := by
  unfold BadRanges
  simp only [Bool.and_eq_true, decide_eq_true_iff, List.all_eq_true, aligned_iff, Bool.not_eq_true', List.isEmpty_eq_false_iff,
    not_or, not_exists, not_and, not_not, not_lt, and_assoc, ne_eq]
  rw [show (1 ≤ size ↔ ¬ size = 0) by omega]
  rfl

theorem configured_of_good {w p : Byte} {base size : Nat} {ms : List (Byte × Nat)} (h : ¬ BadWindow base size p ms) :
    configured { window := w, base := base, size := size, policy := p, members := ms } = some (newWindow base size p ms) := by
  simp only [BadWindow, BadLegs, not_or] at h
  obtain ⟨hranges, ⟨hlegs, hnodup⟩, hpolicy⟩ := h
  have hle : ∀ m ∈ ms, m.1.toNat ≤ 3 := fun m hm => by
    by_contra hgt
    exact hlegs ⟨m, hm, by omega⟩
  have hranges := (configured_ranges base size ms).mpr hranges
  have hdistinct := distinctLegs_iff.mpr ((nodup_legs hle).mpr (not_not.mp hnodup))
  simp only [configured]
  rw [if_pos hranges, legPairs_of_le hle, policyArg_of_good hpolicy]
  simp only [hdistinct, if_true, newWindow, List.map_map]
  rfl

theorem configured_of_bad {w p : Byte} {base size : Nat} {ms : List (Byte × Nat)} (h : BadWindow base size p ms) :
    configured { window := w, base := base, size := size, policy := p, members := ms } = none := by
  by_cases hr : (aligned base && ms.all (fun m => aligned m.2) && decide (1 ≤ size) && decide (size ≤ Config.maxWindowSize)
      && decide (base + size * Config.segmentBytes ≤ Config.addressEnd) && !ms.isEmpty && decide (ms.length ≤ Config.maxMembers)) = true
  · have hranges := (configured_ranges base size ms).mp hr
    simp only [configured]
    rw [if_pos hr]
    by_cases hlegs : ∃ m ∈ ms, 3 < m.1.toNat
    · rw [legPairs_eq_none hlegs]
    · have hle : ∀ m ∈ ms, m.1.toNat ≤ 3 := fun m hm => by
        by_contra hgt
        exact hlegs ⟨m, hm, by omega⟩
      rw [legPairs_of_le hle]
      by_cases hpolicy : BadPolicy p
      · rw [policyArg_of_bad hpolicy]
      · have hrepeat : ¬ (ms.map (·.1)).Nodup :=
          ((h.resolve_left hranges).resolve_right hpolicy).resolve_left hlegs
        have hdistinct : ¬ distinctLegs (ms.map fun m => ((Fin.ofNat 4 m.1.toNat : LegIx), m.2)) = true := by
          rw [distinctLegs_iff, nodup_legs hle]; exact hrepeat
        rw [policyArg_of_good hpolicy]
        exact if_neg hdistinct
  · simp only [configured]
    exact if_neg hr

/-! ## The command (R8) -/

/-- The status of a WINDOW_SET with well laid out arguments: the first condition of R8 that holds. -/
theorem cmdWindowSet_status (s : State) {w p : Byte} {base size : Nat} {ms : List (Byte × Nat)} (hb : base < 2 ^ 48) (hs : size < 2 ^ 32)
    (hm : ∀ m ∈ ms, m.2 < 2 ^ 48) (hl : ms.length ≤ 5) :
    let args := windowSetArgs w base size p ms
    (inReset s = true → cmdWindowSet args s = refuse .busy s) ∧
    (inReset s = false → 15 < w.toNat → cmdWindowSet args s = refuse .arg s) ∧
    (inReset s = false → w.toNat ≤ 15 → (s.win (Fin.ofNat 16 w.toNat)).state ≠ .disabled → cmdWindowSet args s = refuse .state s) ∧
    (inReset s = false → w.toNat ≤ 15 → (s.win (Fin.ofNat 16 w.toNat)).state = .disabled → BadWindow base size p ms →
      cmdWindowSet args s = refuse .arg s) ∧
    (inReset s = false → w.toNat ≤ 15 → (s.win (Fin.ofNat 16 w.toNat)).state = .disabled → ¬ BadWindow base size p ms →
      cmdWindowSet args s = finish .done (s.setWin (Fin.ofNat 16 w.toNat) (newWindow base size p ms)).raiseHead) := by
  intro args
  have hargs : windowArgs args = _ := windowArgs_windowSetArgs hb hs hm hl
  simp only [cmdWindowSet, hargs]
  refine ⟨fun hr => if_pos hr, fun hr hw => ?_, fun hr hw hd => ?_, fun hr hw hd hbad => ?_, fun hr hw hd hgood => ?_⟩
  all_goals rw [if_neg (by simp [hr])]
  · rw [winArg_eq_none hw]
  · rw [winArg_of_le hw]
    exact if_pos (by simpa using hd)
  · rw [winArg_of_le hw, configured_of_bad hbad]
    exact if_neg (by simpa using hd)
  · rw [winArg_of_le hw, configured_of_good hgood]
    exact if_neg (by simpa using hd)

/-- The last six tests of R8 answer ARG if one of them holds. -/
theorem arg_of_test {A B C D E F : Prop} [Decidable A] [Decidable B] [Decidable C] [Decidable D] [Decidable E] [Decidable F]
    (h : (A ∨ B ∨ C ∨ D) ∨ E ∨ F) :
    (if A then Status.arg else if B then .arg else if C then .arg else if D then .arg else if E then .arg else if F then .arg else .done) =
      .arg := by
  simp only [← ite_or]
  exact if_pos (by simpa only [or_assoc] using h)

/-- They answer DONE if none of them holds. -/
theorem done_of_tests {A B C D E F : Prop} [Decidable A] [Decidable B] [Decidable C] [Decidable D] [Decidable E] [Decidable F]
    (h : ¬ ((A ∨ B ∨ C ∨ D) ∨ E ∨ F)) :
    (if A then Status.arg else if B then .arg else if C then .arg else if D then .arg else if E then .arg else if F then .arg else .done) =
      .done := by
  simp only [← ite_or]
  exact if_neg (by simpa only [or_assoc] using h)

theorem windowSet_wrongLength {s : State} {q : Byte} {args : List Byte} (hl : Listening s) (ha : args.length ≤ 48)
    (hlen : args.length ≠ 13 + 7 * (args.getD 12 0).toNat) :
    exec (.windowSet q args) s = .next (answered q (if s.port.progress ≠ .none then .busy else .arg) [] (heard 0x10 q args s)) := by
  rw [exec_heard (c := .windowSet q args) rfl ha hl]
  show Host.Outcome.next (respond q (cmdWindowSet args _)) = _
  simp only [cmdWindowSet, windowArgs_of_length hlen, heard_inReset]
  by_cases hp : s.port.progress = .none
  · rw [if_neg (by rw [inReset_eq_false.mpr hp]; simp), if_neg (not_not.mpr hp), respond_refuse]
  · rw [if_pos (inReset_eq_true.mpr hp), if_pos hp, respond_refuse]

/-- Settles O18: a wrong length by `windowArgs_of_length`, a right one by the cases of `cmdWindowSet_status`. -/
theorem windowSetChecksAndReplacesTheRecord : Obligations.WindowSetChecksAndReplacesTheRecord := by
  refine ⟨fun s q args hl ha hlen => windowSet_wrongLength hl ha hlen, fun s q w p base size ms hl hb hs hm hms => ?tests⟩
  intro args
  have hlen : args.length ≤ 48 := by
    have := length_windowSetArgs w base size p ms
    show (windowSetArgs w base size p ms).length ≤ 48
    omega
  have hrun : exec (.windowSet q args) s = .next (respond q (cmdWindowSet args (heard 0x10 q args s))) :=
    exec_heard (c := .windowSet q args) rfl hlen hl
  obtain ⟨hbusy, hwin, hstate, hbad, hgood⟩ := cmdWindowSet_status (heard 0x10 q args s) (w := w) (p := p) hb hs hm hms
  simp only [heard_inReset, heard_win, inReset_eq_false, inReset_eq_true] at hbusy hwin hstate hbad hgood
  rw [hrun]
  by_cases hp : s.port.progress = .none
  · by_cases hw : 15 < w.toNat
    · rw [if_neg (not_not.mpr hp), if_pos hw, hwin hp hw, respond_refuse]
      exact ⟨fun _ => rfl, fun h => Status.noConfusion h⟩
    · have hw' : w.toNat ≤ 15 := not_lt.mp hw
      rw [if_neg (not_not.mpr hp), if_neg hw]
      by_cases hd : (s.win (Fin.ofNat 16 w.toNat)).state = .disabled
      · rw [if_neg (not_not.mpr hd)]
        by_cases hbw : BadWindow base size p ms
        · rw [hbad hp hw' hd hbw, respond_refuse]
          simp only [BadWindow, BadRanges, BadLegs, BadPolicy] at hbw
          rw [arg_of_test hbw]
          exact ⟨fun _ => rfl, fun h => Status.noConfusion h⟩
        · rw [hgood hp hw' hd hbw, respond_finish]
          simp only [BadWindow, BadRanges, BadLegs, BadPolicy] at hbw
          rw [done_of_tests hbw]
          exact ⟨fun h => absurd rfl h, fun _ => rfl⟩
      · rw [if_pos hd, hstate hp hw' hd, respond_refuse]
        exact ⟨fun _ => rfl, fun h => Status.noConfusion h⟩
  · rw [if_pos hp, hbusy hp, respond_refuse]
    exact ⟨fun _ => rfl, fun h => Status.noConfusion h⟩

/-! ## PASS_SET (R7) -/

/-- PASS_SET with a byte that names a leg or NONE. -/
theorem cmdPassSet_of_passArg {b : Byte} {p : Option LegIx} {s : State} (hr : inReset s = false) (hb : passArg b = some p) :
    cmdPassSet [b] s = finish .done (State.raiseHead { s with passLeg := p }) := by
  simp only [cmdPassSet, hr, hb, Bool.false_eq_true, if_false]

theorem passArg_legToByte (l : LegIx) : passArg (legToByte l) = some (some l) := by
  revert l; decide

/-- A PASS_SET frame with such a byte, heard outside a datapath reset. -/
theorem exec_passSet_heard {s : State} {q b : Byte} {p : Option LegIx} (hl : Listening s) (hp : s.port.progress = .none)
    (hb : passArg b = some p) :
    exec (.passSet q [b]) s = .next (answered q .done [] (react (State.raiseHead { heard 0x15 q [b] s with passLeg := p }))) := by
  have hcmd : carryOut 0x15 [b] (heard 0x15 q [b] s) = _ :=
    cmdPassSet_of_passArg (s := heard 0x15 q [b] s) (inReset_eq_false.mpr hp) hb
  rw [exec_heard (c := .passSet q [b]) rfl (by simp) hl, hcmd, respond_finish]

/-- Settles O25: the frame is heard and the setting replaced. -/
theorem passSetReplacesTheSetting : Obligations.PassSetReplacesTheSetting := by
  intro s q hl hp
  refine ⟨fun l => ?leg, ?none⟩
  case leg => rw [exec_passSet_heard (s := s) hl hp (passArg_legToByte l)]; rfl
  case none => rw [exec_passSet_heard (s := s) (p := none) hl hp (by decide)]; rfl

end Sys2Proof.Machine
end

section
/-! SUPPORT. The window commands' effects: records posted in a row, the AUTO jobs of R14, WINDOW_ENABLE (R11 to R14), WINDOW_DISABLE (R15), the
drain (R16, R17), WINDOW_RESEED (R19). -/

namespace Sys2Proof.Machine

open Sys2Proof.Safety

/-! ## Records posted in a row -/

theorem foldl_post {α : Type} (f : α → EventRec) (as : List α) (s : State) :
    as.foldl (fun s a => post (f a) s) s = { s with events := (as.map f).foldl EventUnit.offer s.events } := by
  induction as generalizing s with
  | nil => rfl
  | cons a as ih => exact ih (post (f a) s)

theorem postEnded_eq (c : JobCause) (js : List Job) (s : State) :
    postEnded c js s =
      { s with events := (js.map fun j => EventRec.jobEnded j.window j.target c j.number).foldl EventUnit.offer s.events } :=
  foldl_post _ js s

/-! ## Members by their legs -/

/-- In a list without repeated legs a member is the one found by its leg. -/
theorem find_of_mem {ms : List Member} (h : (ms.map (·.leg)).Nodup) {m : Member} (hm : m ∈ ms) :
    ms.find? (fun k => k.leg == m.leg) = some m := by
  induction ms with
  | nil => simp at hm
  | cons k ks ih =>
    obtain ⟨hk, hks⟩ := List.nodup_cons.mp (List.map_cons ▸ h)
    rcases List.mem_cons.mp hm with rfl | hm
    · simp
    · have hne : ¬ k.leg = m.leg := fun he => hk (he ▸ List.mem_map.mpr ⟨m, hm, rfl⟩)
      rw [List.find?_cons_of_neg (by simpa using hne)]
      exact ih hks hm

theorem memberOf_of_mem {s : State} {w : WinIx} (h : ((s.win w).members.map (·.leg)).Nodup) {m : Member} (hm : m ∈ (s.win w).members) :
    memberOf s w m.leg = some m := find_of_mem h hm

theorem slotState_of_mem {s : State} {w : WinIx} (h : ((s.win w).members.map (·.leg)).Nodup) {m : Member} (hm : m ∈ (s.win w).members) :
    slotState s w m.leg = m.state := by
  simp only [slotState, memberOf_of_mem h hm, Option.bind_some]

theorem memberOf_leg {s : State} {w : WinIx} {l : LegIx} {m : Member} (h : memberOf s w l = some m) : m.leg = l := by
  simpa using List.find?_some h

theorem memberOf_mem {s : State} {w : WinIx} {l : LegIx} {m : Member} (h : memberOf s w l = some m) : m ∈ (s.win w).members :=
  List.mem_of_find?_eq_some h

theorem memberOf_eq_none {s : State} {w : WinIx} {l : LegIx} : memberOf s w l = none ↔ ∀ m ∈ (s.win w).members, m.leg ≠ l := by
  simp [memberOf]

/-! ## AUTO jobs (R14, R101) -/

theorem queueAuto_eq (w : WinIx) (l : LegIx) (s : State) : queueAuto w l s = autoQueued w l s := rfl

/-- The test of R14 on a slot. -/
def autoDue (w : WinIx) (s : State) (m : Member) : Bool :=
  slotState s w m.leg == some .stale && isUp s m.leg && fitsLeg (s.leg m.leg) m.base (s.win w).size && !hasJob s w m.leg

theorem autoQueued_windows (w : WinIx) (l : LegIx) (s : State) : (autoQueued w l s).windows = s.windows := by
  unfold autoQueued; split <;> rfl

theorem autoQueued_legs (w : WinIx) (l : LegIx) (s : State) : (autoQueued w l s).legs = s.legs := by
  unfold autoQueued; split <;> rfl

theorem autoQueued_store (w : WinIx) (l : LegIx) (s : State) : (autoQueued w l s).store = s.store := by
  unfold autoQueued; split <;> rfl

/-- A job for one slot is none for another. -/
theorem autoQueued_hasJob {w : WinIx} {l k : LegIx} (s : State) (h : l ≠ k) : hasJob (autoQueued w l s) w k = hasJob s w k := by
  unfold autoQueued
  split
  · simp [hasJob, newJob, h]
  · rfl

theorem autoDue_autoQueued {w : WinIx} {l : LegIx} (s : State) {m : Member} (h : l ≠ m.leg) :
    autoDue w (autoQueued w l s) m = autoDue w s m := by
  simp only [autoDue, slotState, memberOf, isUp, State.win, State.leg, autoQueued_windows, autoQueued_legs, autoQueued_hasJob s h]

/-- Slots with different legs are each tested as if they were the first. -/
theorem foldl_autoDue {w : WinIx} {ms : List Member} (h : (ms.map (·.leg)).Nodup) (s : State) :
    ms.foldl (fun u m => if autoDue w u m then autoQueued w m.leg u else u) s =
      (ms.filter (autoDue w s)).foldl (fun u m => autoQueued w m.leg u) s := by
  induction ms generalizing s with
  | nil => rfl
  | cons m ms ih =>
    obtain ⟨hm, hms⟩ := List.nodup_cons.mp (List.map_cons ▸ h)
    rw [List.foldl_cons, ih hms]
    by_cases hdue : autoDue w s m = true
    · have hrest : ms.filter (autoDue w (autoQueued w m.leg s)) = ms.filter (autoDue w s) :=
        List.filter_congr fun k hk => autoDue_autoQueued s fun he => hm (he ▸ List.mem_map.mpr ⟨k, hk, rfl⟩)
      rw [if_pos hdue, hrest, List.filter_cons_of_pos hdue, List.foldl_cons]
    · rw [if_neg hdue, List.filter_cons_of_neg hdue]

/-- The AUTO jobs of R14, by its words, for a member list without repeated legs. -/
theorem queueAutoJobs_eq {s : State} {w : WinIx} (h : ((s.win w).members.map (·.leg)).Nodup) :
    queueAutoJobs w s = autoQueuedAll w s := by
  have hdue : (s.win w).members.filter (autoDue w s) = needJob w s := by
    refine List.filter_congr fun m hm => ?_
    simp only [autoDue, slotState_of_mem h hm, hasJob, List.not_any_eq_all_not]
  have hfold : queueAutoJobs w s = (s.win w).members.foldl (fun u m => if autoDue w u m then autoQueued w m.leg u else u) s := rfl
  rw [hfold, foldl_autoDue h, hdue, autoQueuedAll]

theorem queueAutoJobs_windows_store (w : WinIx) (s : State) :
    (queueAutoJobs w s).windows = s.windows ∧ (queueAutoJobs w s).store = s.store := by
  have hfold (ms : List Member) (u : State) :
      (ms.foldl (fun u m => if autoDue w u m then autoQueued w m.leg u else u) u).windows = u.windows ∧
      (ms.foldl (fun u m => if autoDue w u m then autoQueued w m.leg u else u) u).store = u.store := by
    induction ms generalizing u with
    | nil => exact ⟨rfl, rfl⟩
    | cons m ms ih =>
      rw [List.foldl_cons]
      split
      · exact ⟨(ih _).1.trans (autoQueued_windows _ _ _), (ih _).2.trans (autoQueued_store _ _ _)⟩
      · exact ih u
  exact hfold (s.win w).members s

/-! ## WINDOW_ENABLE (R11 to R14) -/

theorem isUp_iff {s : State} {l : LegIx} : isUp s l = true ↔ (s.leg l).state = .up := by simp [isUp]

theorem mem_considered {x : Window} {seed : Seed} {m : Member} : m ∈ considered x seed ↔ Considered x seed m := by
  cases seed with
  | all => simp [considered, Considered]
  | leg l =>
    simp only [considered, List.mem_filter, beq_iff_eq, Considered, reduceCtorEq, false_or, Seed.leg.injEq]
    exact and_congr_right fun _ => eq_comm

theorem seedable_iff {s : State} {x : Window} {m : Member} :
    seedable s x m = true ↔ (s.leg m.leg).state = .up ∧ Fits s m.leg m.base x.size := by
  rw [seedable, Bool.and_eq_true, isUp_iff, fitsLeg_iff]

theorem seedRefusal_seed {s : State} {x : Window} {seed : Seed} (h : ∀ m, Considered x seed m → (s.leg m.leg).state ≠ .up) :
    seedRefusal s x seed = some .seed := by
  refine if_pos ?_
  simpa [mem_considered, isUp] using h

theorem seedRefusal_capacity {s : State} {x : Window} {seed : Seed} (hup : ∃ m, Considered x seed m ∧ (s.leg m.leg).state = .up)
    (h : ∀ m, Considered x seed m → (s.leg m.leg).state = .up → ¬ Fits s m.leg m.base x.size) :
    seedRefusal s x seed = some .capacity := by
  have hany : (considered x seed).any (fun m => isUp s m.leg) = true := by
    obtain ⟨m, hm, hu⟩ := hup
    exact List.any_eq_true.mpr ⟨m, mem_considered.mpr hm, isUp_iff.mpr hu⟩
  have hnone : (considered x seed).any (seedable s x) = false :=
    List.any_eq_false.mpr fun m hm hs => h m (mem_considered.mp hm) (seedable_iff.mp hs).1 (seedable_iff.mp hs).2
  simp [seedRefusal, hany, hnone]

theorem seedRefusal_none {s : State} {x : Window} {seed : Seed}
    (h : ∃ m, Considered x seed m ∧ (s.leg m.leg).state = .up ∧ Fits s m.leg m.base x.size) : seedRefusal s x seed = none := by
  obtain ⟨m, hm, hup, hfit⟩ := h
  have hmem := mem_considered.mpr hm
  have hany : (considered x seed).any (fun m => isUp s m.leg) = true := List.any_eq_true.mpr ⟨m, hmem, isUp_iff.mpr hup⟩
  have hsome : (considered x seed).any (seedable s x) = true := List.any_eq_true.mpr ⟨m, hmem, seedable_iff.mpr ⟨hup, hfit⟩⟩
  simp [seedRefusal, hany, hsome]

theorem extentTaken_other_iff {s : State} {w : WinIx} {l : LegIx} {base bytes : Nat} :
    extentTaken s (some w) l base bytes = true ↔ ExtentOverlaps s (· ≠ w) l base bytes := by
  rw [extentTaken_iff]
  simp only [ExtentOverlaps, ne_eq, Option.some.injEq, eq_comm]

/-- WINDOW_ENABLE with arguments that name a window and a seed, outside a datapath reset. -/
theorem cmdWindowEnable_eq {s : State} {w : WinIx} {seed : Seed} {b : Byte} (hr : inReset s = false) (hb : seedArg b = some seed) :
    cmdWindowEnable [winToByte w, b] s =
      if (s.win w).state != .disabled then refuse .state s
      else if rangeTaken s w (s.win w).base (s.win w).bytes then refuse .overlap s
      else if (s.win w).members.any (fun m => extentTaken s (some w) m.leg m.base (s.win w).bytes) then refuse .overlap s
      else match seedRefusal s (s.win w) seed with
        | some st => refuse st s
        | none => finish .done (enabled w seed s) := by
  simp only [cmdWindowEnable, hr, hb, winArg_winToByte, Bool.false_eq_true, if_false] <;> rfl

theorem seedArg_of {seed : Seed} {b : Byte} (h : seed = .all ∧ b = 0xFF ∨ ∃ l, seed = .leg l ∧ b = legToByte l) :
    seedArg b = some seed := by
  rcases h with ⟨rfl, rfl⟩ | ⟨l, rfl, rfl⟩
  · rfl
  · revert l; decide

/-- Settles O20: the tests of `cmdWindowEnable_eq` in the words of R11 and R12. -/
theorem windowEnableAnswersByItsTable : Obligations.WindowEnableAnswersByItsTable := by
  intro s q w seed b hl hp hseed H answer
  have hrun : answer = .next (respond q (cmdWindowEnable [winToByte w, b] H)) :=
    exec_heard (c := .windowEnable q [winToByte w, b]) rfl (by simp) hl
  have hwin : H.win w = s.win w := rfl
  rw [cmdWindowEnable_eq (s := H) (inReset_eq_false.mpr hp) (seedArg_of hseed), hwin] at hrun
  have hrange : rangeTaken H w (s.win w).base (s.win w).bytes = true ↔ RangeOverlaps s w := rangeTaken_iff (s := H)
  have hextent : (s.win w).members.any (fun m => extentTaken H (some w) m.leg m.base (s.win w).bytes) = true ↔
      ∃ m ∈ (s.win w).members, ExtentOverlaps s (· ≠ w) m.leg m.base ((s.win w).size * 65536) := by
    rw [List.any_eq_true]
    exact exists_congr fun m => and_congr_right fun _ => extentTaken_other_iff (s := H)
  refine ⟨fun hd => ?state, fun hd ho => ?range, fun hd ho he => ?extent, fun hd ho he => ?seeds⟩
  case state => rw [hrun, if_pos (by simpa using hd), respond_refuse]
  case range => rw [hrun, if_neg (by simpa using hd), if_pos (hrange.mpr ho), respond_refuse]
  case extent =>
    rw [hrun, if_neg (by simpa using hd), if_neg (mt hrange.mp ho), if_pos (hextent.mpr he), respond_refuse]
  case seeds =>
    rw [if_neg (by simpa using hd), if_neg (mt hrange.mp ho), if_neg (mt hextent.mp he)] at hrun
    refine ⟨fun h => ?_, fun hu h => ?_, fun h => ?_⟩
    · rw [hrun, seedRefusal_seed (s := H) h]; exact congrArg _ (respond_refuse _ _ _)
    · rw [hrun, seedRefusal_capacity (s := H) hu h]; exact congrArg _ (respond_refuse _ _ _)
    · rw [hrun, seedRefusal_none (s := H) h]; exact congrArg _ (respond_finish _ _ _)

/-! ### The effects of an enable -/

theorem seededMember_leg (s : State) (x : Window) (seed : Seed) (m : Member) : (seededMember s x seed m).leg = m.leg := by
  unfold seededMember; split <;> rfl

theorem seededMember_base (s : State) (x : Window) (seed : Seed) (m : Member) : (seededMember s x seed m).base = m.base := by
  unfold seededMember; split <;> rfl

/-- The members a seed considers are, seeded, those it considered before. -/
theorem considered_seeded (s : State) (x y : Window) (seed : Seed) (hy : y.members = x.members.map (seededMember s x seed)) :
    considered y seed = (considered x seed).map (seededMember s x seed) := by
  cases seed with
  | all => exact hy
  | leg l =>
    simp only [considered, hy, List.filter_map]
    congr 1
    refine List.filter_congr fun m _ => ?_
    simp [seededMember_leg]

/-- The window after an enable. -/
def enabledWindow (s : State) (w : WinIx) (seed : Seed) : Window :=
  { s.win w with state := .enabled, rotate := 0, members := (s.win w).members.map (seededMember s (s.win w) seed) }

theorem enableWindow_eq (w : WinIx) (seed : Seed) (s : State) : enableWindow w seed s = s.setWin w (enabledWindow s w seed) := rfl

theorem healthOf_enabled {x : Window} (h : x.state = .enabled) :
    healthOf x = some (if 2 ≤ currentCount x then .prot else if currentCount x = 1 then .exposed else .lost) := by
  simp only [healthOf, h, beq_iff_eq]
  split_ifs <;> first | rfl | contradiction

/-- The records of an enable, in their order (R13, R20). -/
def enableRecords (s : State) (w : WinIx) (seed : Seed) : List EventRec :=
  (((considered (s.win w) seed).filter fun m => isUp s m.leg && !seedable s (s.win w) m).map fun m =>
    EventRec.capacityMismatch w m.leg (capacityOf s m.leg)) ++
  ((enabledWindow s w seed).members.map fun m => EventRec.memberChange w m.leg .seed m.state) ++
  [EventRec.windowHealth w none
    (if 2 ≤ currentCount (enabledWindow s w seed) then .prot
     else if currentCount (enabledWindow s w seed) = 1 then .exposed else .lost)]

/-- The seeded window is the one that an enable leaves. -/
theorem setWin_events_win (s : State) (w : WinIx) (x : Window) (e : EventUnit) :
    ({ s.setWin w x with events := e } : State).win w = x := setWin_win_self s w x

/-- Posting capacity mismatches reads no capacity that it changes. -/
theorem foldl_mismatch {s t : State} (w : WinIx) (ms : List Member) (h : t.legs = s.legs) :
    ms.foldl (fun u m => post (.capacityMismatch w m.leg (capacityOf u m.leg)) u) t =
      { t with events := (ms.map fun m => EventRec.capacityMismatch w m.leg (capacityOf s m.leg)).foldl EventUnit.offer t.events } := by
  induction ms generalizing t with
  | nil => rfl
  | cons m ms ih =>
    have hcap : capacityOf t m.leg = capacityOf s m.leg := by simp only [capacityOf, State.leg, h]
    rw [List.foldl_cons, hcap, ih (by exact h)]
    rfl

/-- The records of the members that are considered and UP but do not fit, of the window as it is seeded. -/
theorem postMismatches_enableWindow (s : State) (w : WinIx) (seed : Seed) :
    postMismatches w seed (enableWindow w seed s) =
      { s.setWin w (enabledWindow s w seed) with
        events := (((considered (s.win w) seed).filter fun m => isUp s m.leg && !seedable s (s.win w) m).map fun m =>
          EventRec.capacityMismatch w m.leg (capacityOf s m.leg)).foldl EventUnit.offer s.events } := by
  have hfilter : (considered (s.win w) seed).filter ((fun m => isUp (s.setWin w (enabledWindow s w seed)) m.leg &&
        !seedable (s.setWin w (enabledWindow s w seed)) (enabledWindow s w seed) m) ∘ seededMember s (s.win w) seed) =
      (considered (s.win w) seed).filter fun m => isUp s m.leg && !seedable s (s.win w) m := by
    refine List.filter_congr fun m _ => ?_
    simp only [Function.comp_apply, seedable, seededMember_leg, seededMember_base]
    rfl
  have hmap (ms : List Member) : ms.map ((fun m => EventRec.capacityMismatch w m.leg (capacityOf s m.leg)) ∘
        seededMember s (s.win w) seed) = ms.map fun m => EventRec.capacityMismatch w m.leg (capacityOf s m.leg) :=
    List.map_congr_left fun m _ => by simp only [Function.comp_apply, seededMember_leg]
  unfold postMismatches
  rw [enableWindow_eq, setWin_win_self, foldl_mismatch (s := s) (t := s.setWin w _) w _ rfl,
    considered_seeded s (s.win w) (enabledWindow s w seed) seed rfl, List.filter_map, List.map_map, hfilter, hmap]
  rfl

/-- An enable up to the AUTO jobs. -/
theorem enable_records (s : State) (w : WinIx) (seed : Seed) :
    postHealth w none (postSeeds w (postMismatches w seed (enableWindow w seed s))) =
      { s.setWin w (enabledWindow s w seed) with events := (enableRecords s w seed).foldl EventUnit.offer s.events } := by
  have hhealth : healthOf (enabledWindow s w seed) = some _ := healthOf_enabled rfl
  rw [postMismatches_enableWindow, postSeeds, foldl_post]
  unfold postHealth
  rw [setWin_events_win, setWin_events_win, hhealth]
  simp only [postChange, enableRecords, List.foldl_append]
  rfl

/-- The window after an enable, and its effects but for the AUTO jobs of R14 (R13). -/
theorem enabled_eq (s : State) (w : WinIx) (seed : Seed) :
    enabled w seed s =
      (if (s.win w).autoRebuild then
        queueAutoJobs w { s.setWin w (enabledWindow s w seed) with events := (enableRecords s w seed).foldl EventUnit.offer s.events }
      else { s.setWin w (enabledWindow s w seed) with events := (enableRecords s w seed).foldl EventUnit.offer s.events }).raise := by
  unfold enabled
  rw [enable_records]
  simp only [setWin_events_win]
  rfl

theorem enabled_win (s : State) (w : WinIx) (seed : Seed) : (enabled w seed s).win w = enabledWindow s w seed := by
  rw [enabled_eq, raise_win]
  split
  · rw [State.win, (queueAutoJobs_windows_store w _).1]
    exact setWin_events_win s w _ _
  · exact setWin_events_win s w _ _

theorem considered_any_iff {x : Window} {seed : Seed} {m : Member} (hm : m ∈ x.members) :
    (considered x seed).any (fun k => k.leg == m.leg) = true ↔ Considered x seed m := by
  simp only [List.any_eq_true, mem_considered, Considered, beq_iff_eq]
  constructor
  · rintro ⟨k, ⟨-, hk⟩, hleg⟩
    exact ⟨hm, hleg ▸ hk⟩
  · exact fun ⟨_, hs⟩ => ⟨m, ⟨hm, hs⟩, rfl⟩

theorem seededMember_of_seeded {s : State} {x : Window} {seed : Seed} {m : Member} (hm : m ∈ x.members) (hc : Considered x seed m)
    (hu : (s.leg m.leg).state = .up) (hf : Fits s m.leg m.base x.size) :
    seededMember s x seed m = { m with state := some .current, whole := false, serial := (s.leg m.leg).identity.map (·.serial) } :=
  if_pos (by rw [Bool.and_eq_true]; exact ⟨(considered_any_iff hm).mpr hc, seedable_iff.mpr ⟨hu, hf⟩⟩)

theorem seededMember_of_unseeded {s : State} {x : Window} {seed : Seed} {m : Member} (hm : m ∈ x.members)
    (h : ¬ (Considered x seed m ∧ (s.leg m.leg).state = .up ∧ Fits s m.leg m.base x.size)) :
    seededMember s x seed m = { m with state := some .stale, whole := true, serial := none } :=
  if_neg (by rw [Bool.and_eq_true]; exact fun ⟨hc, hs⟩ => h ⟨(considered_any_iff hm).mp hc, seedable_iff.mp hs⟩)

/-- Settles O21: `enabled_eq` with the seeded members, and the AUTO jobs by `queueAutoJobs_eq`. -/
theorem enablingSeedsTheSlots : Obligations.EnablingSeedsTheSlots := by
  intro s w seed x ms seeded
  refine ⟨fun m => ⟨mem_considered, seedable_iff⟩, enabled_win s w seed, fun m hm hc hu hf => seededMember_of_seeded hm hc hu hf,
    fun m hm h => seededMember_of_unseeded hm h, fun ha => ?plain, fun ha hn => ?auto⟩
  case plain =>
    have ha : ¬ (s.win w).autoRebuild = true := by simpa using ha
    rw [enabled_eq, if_neg ha]
    rfl
  case auto =>
    have ha : (s.win w).autoRebuild = true := ha
    have hnodup : ((seeded.win w).members.map (·.leg)).Nodup := by
      have hwin : seeded.win w = enabledWindow s w seed := setWin_win_self s w _
      have hlegs : (enabledWindow s w seed).members.map (·.leg) = x.members.map (·.leg) := by
        simp only [enabledWindow, List.map_map]
        exact List.map_congr_left fun m _ => seededMember_leg _ _ _ _
      rw [hwin, hlegs]
      exact hn
    rw [enabled_eq, if_pos ha, ← queueAutoJobs_eq hnodup]
    rfl

end Sys2Proof.Machine
end

section
/-! SUPPORT. WINDOW_DISABLE (R15), the drain (R16, R17) and WINDOW_RESEED (R19). -/

namespace Sys2Proof.Machine

open Sys2Proof.Safety

/-! ## WINDOW_DISABLE (R15) -/

theorem cmdWindowDisable_eq {s : State} (w : WinIx) (hr : inReset s = false) :
    cmdWindowDisable [winToByte w] s =
      match (s.win w).state with
      | .disabled => refuse .state s
      | .draining => refuse .busy s
      | .enabled => if outstanding (startDrain w s) w then finish .accepted (startDrain w s)
          else finish .done (completeDrain w (startDrain w s)) := by
  simp only [cmdWindowDisable, hr, winArg_winToByte, Bool.false_eq_true, if_false] <;> rfl

theorem abortForDrain_framed (w : WinIx) (s : State) : Framed s (abortForDrain w s) := by
  unfold abortForDrain
  split
  · exact .ite (demote_framed _ _ _ _ _) (.refl s)
  · exact .refl s

theorem Framed.window_state {s t : State} (h : Framed s t) (w : WinIx) : (t.win w).state = (s.win w).state := by
  have hstate := congrArg Window.state (h.own w)
  exact hstate

theorem removeWindowJobs_eq (w : WinIx) (s : State) :
    removeWindowJobs w s = { s with
      jobs := s.jobs.filter fun j => j.window != w
      events := ((s.jobs.filter fun j => j.window == w).map fun j =>
        EventRec.jobEnded j.window j.target .draining j.number).foldl EventUnit.offer s.events } :=
  postEnded_eq _ _ _

theorem startDrain_state (s : State) (w : WinIx) : ((startDrain w s).win w).state = .draining := by
  rw [startDrain, removeWindowJobs_eq]
  refine ((abortForDrain_framed w _).window_state w).trans ?_
  rw [raise_win, modWin_win_self]

theorem startDrain_jobs (s : State) (w : WinIx) : ∀ j ∈ (startDrain w s).jobs, j.window ≠ w := by
  rw [startDrain, removeWindowJobs_eq]
  exact fun j hj => by simpa using (List.mem_filter.mp hj).2

/-- No running job of the window is left alone. -/
theorem abortForDrain_of_other {s : State} {w : WinIx} (h : ∀ j, runningJob s = some j → j.window ≠ w) : abortForDrain w s = s := by
  unfold abortForDrain
  split
  · rename_i j hj
    exact if_neg (by simpa using h j hj)
  · rfl

theorem abortForDrain_of_running {s : State} {w : WinIx} {j : Job} (hj : runningJob s = some j) (hw : j.window = w) :
    abortForDrain w s = demote w j.target .rebuildAborted .draining s := by
  unfold abortForDrain
  rw [hj]
  exact if_pos (by simpa using hw)

/-- Settles O22: the table of `cmdWindowDisable_eq`, and the steps of `startDrain`. -/
theorem windowDisableStartsTheDrain : Obligations.WindowDisableStartsTheDrain := by
  refine ⟨fun s q w hl hp => ?table, fun s w => ⟨startDrain_state s w, startDrain_jobs s w⟩, fun s w h => ?idle, fun s w j hj hw => ?running,
    fun s w => rfl⟩
  case table =>
    intro H answer
    have hrun : answer = .next (respond q (cmdWindowDisable [winToByte w] H)) :=
      exec_heard (c := .windowDisable q [winToByte w]) rfl (by simp) hl
    have hwin : H.win w = s.win w := rfl
    rw [cmdWindowDisable_eq (s := H) w (inReset_eq_false.mpr hp), hwin] at hrun
    refine ⟨fun hd => ?_, fun hd => ?_, fun hd ho => ?_, fun hd ho => ?_⟩ <;> rw [hrun, hd]
    · exact congrArg _ (respond_refuse _ _ _)
    · exact congrArg _ (respond_refuse _ _ _)
    · simp only [ho, Bool.false_eq_true, if_false]
      exact congrArg _ (respond_finish _ _ _)
    · simp only [ho, if_true]
      exact congrArg _ (respond_finish _ _ _)
  case idle =>
    rw [startDrain, abortForDrain_of_other (s := (modWin w (fun x => { x with state := .draining }) s).raise) h, removeWindowJobs_eq]
    rfl
  case running =>
    rw [startDrain, abortForDrain_of_running (s := (modWin w (fun x => { x with state := .draining }) s).raise) hj hw, removeWindowJobs_eq]
    rfl

/-! ## The drain test (R16) -/

theorem isWriteOf_iff {w : WinIx} {r : LegRequest} : r.isWriteOf w = true ↔ r.kind = .write ∧ ∃ n, r.owner = .write n (some w) := by
  rw [LegRequest.isWriteOf, Bool.and_eq_true, beq_iff_eq, beq_iff_eq]
  refine and_congr_right fun _ => ?_
  unfold LegRequest.writeWindow
  cases r.owner with
  | write n v => simp
  | read n => simp
  | chunk n c => simp

theorem outstanding_iff {s : State} {w : WinIx} :
    outstanding s w = true ↔
      (∃ e ∈ s.writes, e.window = some w) ∨ (∃ l : LegIx, ∃ r ∈ (s.leg l).lag, r.kind = .write ∧ ∃ n, r.owner = .write n (some w)) ∨
      (∃ n ∈ s.hold, ∃ e, findWrite s n = some e ∧ e.window = some w) ∨ (∃ e ∈ s.reads, e.window = some w) := by
  simp only [outstanding, Bool.or_eq_true, List.any_eq_true, beq_iff_eq, isWriteOf_iff, Option.any_eq_true, or_assoc,
    mem_allLegs, true_and]

/-- Settles O23: the drain test of `testDrain`, and outstanding work by `outstanding_iff`. -/
theorem drainCompletesWhenNothingIsOutstanding : Obligations.DrainCompletesWhenNothingIsOutstanding := by
  refine ⟨fun s w h => ?stays, fun s w hd ho => ?completes, fun s w => outstanding_iff⟩
  case stays =>
    have htest : testDrain w s = s := if_neg (by rcases h with h | h <;> simp [h])
    exact congrArg (fun t => Host.Outcome.next (react t)) htest
  case completes =>
    have htest : testDrain w s = completeDrain w s := if_pos (by simp [hd, ho])
    exact congrArg (fun t => Host.Outcome.next (react t)) htest

/-! ## WINDOW_RESEED (R19) -/

theorem cmdWindowReseed_eq {s : State} (w : WinIx) (l : LegIx) (hr : inReset s = false) :
    cmdWindowReseed [winToByte w, legToByte l] s =
      if (s.win w).state != .enabled || !isLost (s.win w) then refuse .state s
      else match memberOf s w l with
        | some m =>
          if !isUp s l then refuse .seed s
          else if !fitsLeg (s.leg l) m.base (s.win w).size then refuse .capacity s
          else finish .done (reseed w l s)
        | none => refuse .arg s := by
  simp only [cmdWindowReseed, hr, winArg_winToByte, legArg_legToByte, Bool.false_eq_true, if_false] <;> rfl

/-- An ENABLED window whose slots are none of them CURRENT may be reseeded. -/
theorem reseed_refused_iff {x : Window} :
    (x.state != .enabled || !isLost x) = true ↔ x.state ≠ .enabled ∨ ¬ ∀ m ∈ x.members, m.state ≠ some .current := by
  rw [Bool.or_eq_true, bne_iff_ne, Bool.not_eq_true', Bool.eq_false_iff, ne_eq, ne_eq, isLost_iff]
  by_cases hx : x.state = .enabled
  · simp [hx]
  · simp [hx]

/-- A slot's record after a reseed with leg `l`. -/
def reseededMember (s : State) (l : LegIx) (m : Member) : Member :=
  if m.leg = l then { m with state := some .current, whole := false, serial := (s.leg l).identity.map (·.serial) }
  else { m with whole := true }

/-- The window after a reseed. -/
def reseededWindow (s : State) (w : WinIx) (l : LegIx) : Window :=
  { s.win w with members := (s.win w).members.map (reseededMember s l) }

/-- A member with WHOLE set if its leg is that of one of `ms`. -/
def wholeIn (ms : List Member) (k : Member) : Member := if ms.any (fun m => m.leg == k.leg) then { k with whole := true } else k

theorem wholeIn_nil : wholeIn [] = id := rfl

theorem wholeIn_singleton (m : Member) : wholeIn [m] = fun k => if k.leg == m.leg then { k with whole := true } else k := by
  funext k
  simp only [wholeIn, List.any_cons, List.any_nil, Bool.or_false, BEq.comm (a := m.leg)]

/-- Setting WHOLE, and freeing, the slots on some legs: the windows. -/
theorem foldl_makeWhole_windows (w : WinIx) (ms : List Member) (s : State) :
    (ms.foldl (fun u m => makeWhole w m.leg u) s).windows =
      s.windows.set w { s.win w with members := (s.win w).members.map (wholeIn ms) } := by
  induction ms generalizing s with
  | nil =>
    have hsame : { s.win w with members := (s.win w).members.map (wholeIn []) } = s.win w := by rw [wholeIn_nil, List.map_id]
    rw [hsame]
    simp [State.win]
  | cons m ms ih =>
    have hset : (makeWhole w m.leg s).windows = s.windows.set w { s.win w with members := (s.win w).members.map (wholeIn [m]) } := by
      rw [wholeIn_singleton]; rfl
    have hwin : (makeWhole w m.leg s).win w = { s.win w with members := (s.win w).members.map (wholeIn [m]) } := by
      rw [State.win, hset]; simp
    have hcomp : wholeIn ms ∘ wholeIn [m] = wholeIn (m :: ms) := by
      funext k
      by_cases hk : m.leg = k.leg
      · simp [wholeIn, hk]
      · simp [wholeIn, hk]
    rw [List.foldl_cons, ih, hset, hwin, Vector.set_set, List.map_map, hcomp]

/-- Setting WHOLE, and freeing, the slots on some legs: everything but the windows. -/
theorem foldl_makeWhole (w : WinIx) (ms : List Member) (s : State) :
    ms.foldl (fun u m => makeWhole w m.leg u) s =
      { s with windows := (ms.foldl (fun u m => makeWhole w m.leg u) s).windows
               store := s.store.filter fun e => !(e.window == w && ms.any fun m => m.leg == e.leg) } := by
  induction ms generalizing s with
  | nil => simp
  | cons m ms ih =>
    rw [List.foldl_cons, ih]
    have hstore : (makeWhole w m.leg s).store = s.store.filter fun e => !(e.window == w && e.leg == m.leg) := rfl
    have hfilter : ((makeWhole w m.leg s).store.filter fun e => !(e.window == w && ms.any fun m => m.leg == e.leg)) =
        s.store.filter fun e => !(e.window == w && (m :: ms).any fun m => m.leg == e.leg) := by
      rw [hstore, List.filter_filter]
      refine List.filter_congr fun e _ => ?_
      rw [List.any_cons, show (m.leg == e.leg) = (e.leg == m.leg) from BEq.comm]
      cases e.window == w <;> cases e.leg == m.leg <;> simp
    rw [hfilter]
    rfl

/-- A reseed up to its records: windows and store. -/
theorem reseed_slots (s : State) (w : WinIx) (l : LegIx) :
    (((makeCurrent w l s).win w).members.filter fun m => m.leg != l).foldl (fun u m => makeWhole w m.leg u) (makeCurrent w l s) =
      { s.setWin w (reseededWindow s w l) with
        store := s.store.filter fun e => !(e.window == w && (e.leg == l || (s.win w).members.any fun m => m.leg == e.leg))
        notice := Notice.full } := by
  have hwin : (makeCurrent w l s).win w = { s.win w with members := (s.win w).members.map fun m =>
      if m.leg == l then { m with state := some .current, whole := false, serial := serialOf s l } else m } := by
    simp [makeCurrent, modMember]
  have hlegs (k : LegIx) : (((makeCurrent w l s).win w).members.filter fun m => m.leg != l).any (fun m => m.leg == k) =
      (k != l && (s.win w).members.any fun m => m.leg == k) := by
    rw [hwin, List.any_filter, List.any_map]
    by_cases hk : k = l
    · subst hk
      simp only [bne_self_eq_false, Bool.false_and, List.any_eq_false]
      intro m _
      by_cases hm : m.leg = k <;> simp [hm]
    · simp only [Bool.true_and, (bne_iff_ne).mpr hk]
      congr 1
      funext m
      by_cases hm : m.leg = l
      · have hmk : ¬ l = k := fun h => hk h.symm
        simp [hm, hmk]
      · simp [hm]
  rw [foldl_makeWhole, foldl_makeWhole_windows]
  generalize hothers : (((makeCurrent w l s).win w).members.filter fun m => m.leg != l) = others at hlegs ⊢
  have hmembers : { (makeCurrent w l s).win w with members := ((makeCurrent w l s).win w).members.map (wholeIn others) } =
      reseededWindow s w l := by
    have hwhole (k : Member) : wholeIn others k =
        if (k.leg != l && (s.win w).members.any fun m => m.leg == k.leg) then { k with whole := true } else k := by
      rw [wholeIn, hlegs]
    rw [funext hwhole, hwin]
    unfold reseededWindow
    simp only [List.map_map]
    congr 1
    refine List.map_congr_left fun m hm => ?_
    have hany : (s.win w).members.any (fun k => k.leg == m.leg) = true := List.any_eq_true.mpr ⟨m, hm, by simp⟩
    by_cases hml : m.leg = l
    · simp [reseededMember, hml, serialOf]
    · simp only [Function.comp_apply, beq_iff_eq, hml, if_false, hany, Bool.and_true, bne_iff_ne, ne_eq, not_false_eq_true, if_true,
        reseededMember]
  have hset : (makeCurrent w l s).windows = s.windows.set w ((makeCurrent w l s).win w) := by
    rw [hwin]; rfl
  have hstore : ((makeCurrent w l s).store.filter fun e => !(e.window == w && (e.leg != l && (s.win w).members.any fun m => m.leg == e.leg))) =
      s.store.filter fun e => !(e.window == w && (e.leg == l || (s.win w).members.any fun m => m.leg == e.leg)) := by
    have hfree : (makeCurrent w l s).store = s.store.filter fun e => !(e.window == w && e.leg == l) := rfl
    rw [hfree, List.filter_filter]
    refine List.filter_congr fun e _ => ?_
    rw [bne]
    cases e.window == w <;> cases e.leg == l <;> simp
  rw [hmembers, hset, Vector.set_set]
  simp only [hlegs]
  rw [hstore]
  rfl

/-- In a LOST window without repeated legs the named slot alone is CURRENT after a reseed. -/
theorem currentCount_reseeded {s : State} {w : WinIx} {l : LegIx} (h : ∀ m ∈ (s.win w).members, m.state ≠ some .current)
    (hl : memberOf s w l ≠ none) (hn : ((s.win w).members.map (·.leg)).Nodup) : currentCount (reseededWindow s w l) = 1 := by
  obtain ⟨m, hm⟩ := Option.ne_none_iff_exists'.mp hl
  have hcurrent (k : Member) (hk : k ∈ (s.win w).members) :
      ((reseededMember s l k).state == some .current) = (k.leg == l) := by
    by_cases hkl : k.leg = l
    · simp [reseededMember, hkl]
    · simp [reseededMember, hkl, h k hk]
  have hlegs : ((s.win w).members.filter fun k => k.leg == l).length = 1 := by
    have hmap : ((s.win w).members.filter fun k => k.leg == l).map (·.leg) = ((s.win w).members.map (·.leg)).filter (· == l) := by
      rw [List.filter_map]; rfl
    have hmem : l ∈ (s.win w).members.map (·.leg) := List.mem_map.mpr ⟨m, memberOf_mem hm, memberOf_leg hm⟩
    rw [← List.length_map (f := (·.leg)), hmap, ← List.countP_eq_length_filter]
    exact List.count_eq_one_of_mem hn hmem
  rw [currentCount, reseededWindow, List.filter_map, List.length_map, ← hlegs]
  congr 1
  exact List.filter_congr fun k hk => hcurrent k hk

theorem healthOf_eq {x : Window} (h : x.state ≠ .disabled) :
    healthOf x = some (if 2 ≤ currentCount x then .prot else if currentCount x = 1 then .exposed else .lost) := by
  simp only [healthOf, beq_iff_eq, h, if_false]
  split_ifs <;> rfl

/-- The window and the store after a reseed: AUTO jobs touch neither. -/
theorem reseed_windows_store (s : State) (w : WinIx) (l : LegIx) :
    (reseed w l s).windows = (s.setWin w (reseededWindow s w l)).windows ∧
    (reseed w l s).store = s.store.filter fun e => !(e.window == w && (e.leg == l || (s.win w).members.any fun m => m.leg == e.leg)) := by
  have hpost (u : State) (r : EventRec) (old : Option Health) :
      (postHealth w old (post r u)).windows = u.windows ∧ (postHealth w old (post r u)).store = u.store := by
    unfold postHealth postChange
    split
    · split <;> exact ⟨rfl, rfl⟩
    · exact ⟨rfl, rfl⟩
  simp only [reseed, reseed_slots]
  split
  · exact ⟨(queueAutoJobs_windows_store w _).1.trans (hpost _ _ _).1, (queueAutoJobs_windows_store w _).2.trans (hpost _ _ _).2⟩
  · exact hpost _ _ _

theorem reseed_win (s : State) (w : WinIx) (l : LegIx) : (reseed w l s).win w = reseededWindow s w l := by
  rw [State.win, (reseed_windows_store s w l).1]
  exact setWin_win_self s w _

/-- A slot's leg is among the members' legs. -/
theorem any_leg_of_memberOf {s : State} {w : WinIx} {l : LegIx} (h : memberOf s w l ≠ none) (k : LegIx) :
    (k == l || (s.win w).members.any fun m => m.leg == k) = (s.win w).members.any fun m => m.leg == k := by
  obtain ⟨m, hm⟩ := Option.ne_none_iff_exists'.mp h
  by_cases hk : k = l
  · have hany : (s.win w).members.any (fun m => m.leg == k) = true :=
      List.any_eq_true.mpr ⟨m, memberOf_mem hm, by simp [memberOf_leg hm, hk]⟩
    simp [hk, hk ▸ hany]
  · simp [hk]

theorem mem_reseed_store {s : State} {w : WinIx} {l : LegIx} (h : memberOf s w l ≠ none) (e : StaleEntry) :
    e ∈ (reseed w l s).store ↔ e ∈ s.store ∧ ¬ (e.window = w ∧ ∃ m ∈ (s.win w).members, m.leg = e.leg) := by
  rw [(reseed_windows_store s w l).2, List.mem_filter, any_leg_of_memberOf h]
  simp [imp_iff_not_or]

/-- The effects of a reseed of a LOST window but for the AUTO jobs (R19). -/
def reseeded (s : State) (w : WinIx) (l : LegIx) : State :=
  { s.setWin w (reseededWindow s w l) with
    store := s.store.filter fun e => !(e.window == w && (s.win w).members.any fun m => m.leg == e.leg)
    events := (s.events.offer (.memberChange w l .reseed (some .current))).offer (.windowHealth w (some .lost) .exposed)
    notice := Notice.full }

theorem reseed_eq {s : State} {w : WinIx} {l : LegIx} (he : (s.win w).state = .enabled)
    (h : ∀ m ∈ (s.win w).members, m.state ≠ some .current) (hl : memberOf s w l ≠ none)
    (hn : ((s.win w).members.map (·.leg)).Nodup) :
    reseed w l s = if (s.win w).autoRebuild then queueAutoJobs w (reseeded s w l) else reseeded s w l := by
  have hhealth : healthOf (reseededWindow s w l) = some .exposed := by
    have hactive : (reseededWindow s w l).state ≠ .disabled := by
      show (s.win w).state ≠ .disabled
      rw [he]; decide
    rw [healthOf_eq hactive, currentCount_reseeded h hl hn]; rfl
  simp only [reseed, reseed_slots]
  simp only [any_leg_of_memberOf hl]
  have hpost : ∀ u : State, u.win w = reseededWindow s w l →
      postHealth w (some .lost) (post (.memberChange w l .reseed (some .current)) u) =
        { u with events := (u.events.offer (.memberChange w l .reseed (some .current))).offer (.windowHealth w (some .lost) .exposed) } := by
    intro u hu
    unfold postHealth
    rw [post_win, hu, hhealth]
    rfl
  have hwin : (reseeded s w l).win w = reseededWindow s w l := setWin_win_self s w _
  have hposted := hpost { s.setWin w (reseededWindow s w l) with
    store := s.store.filter fun e => !(e.window == w && (s.win w).members.any fun m => m.leg == e.leg), notice := Notice.full }
    (setWin_win_self s w _)
  rw [hposted]
  have hauto : (reseeded s w l |>.win w).autoRebuild = (s.win w).autoRebuild := by rw [hwin]; rfl
  rw [← hauto]
  rfl

/-- Settles O24: the table of `cmdWindowReseed_eq`, the slots and the store after it, and `reseed_eq` with the AUTO jobs of R14. -/
theorem windowReseedTakesTheNamedCopy : Obligations.WindowReseedTakesTheNamedCopy := by
  refine ⟨fun s q w l hl hp => ?table, fun s w l => ⟨reseed_win s w l, fun h e => mem_reseed_store h e⟩, fun s w l he h hm hn => ?effects⟩
  case table =>
    intro H answer lost
    have hrun : answer = .next (respond q (cmdWindowReseed [winToByte w, legToByte l] H)) :=
      exec_heard (c := .windowReseed q [winToByte w, legToByte l]) rfl (by simp) hl
    have hwin : H.win w = s.win w := rfl
    have hmember : memberOf H w l = memberOf s w l := rfl
    rw [cmdWindowReseed_eq (s := H) w l (inReset_eq_false.mpr hp), hwin, hmember] at hrun
    refine ⟨fun h => ?_, fun he h hm => ?_, fun m he h hm => ?_⟩
    · rw [hrun, if_pos (reseed_refused_iff.mpr h), respond_refuse]
    · rw [hrun, if_neg (mt reseed_refused_iff.mp (by simp only [not_or, not_not]; exact ⟨he, h⟩)), hm]
      exact congrArg _ (respond_refuse _ _ _)
    · rw [if_neg (mt reseed_refused_iff.mp (by simp only [not_or, not_not]; exact ⟨he, h⟩)), hm] at hrun
      have hup : isUp H l = true ↔ (s.leg l).state = .up := isUp_iff (s := H)
      have hfit : fitsLeg (H.leg l) m.base (s.win w).size = true ↔ Fits s l m.base (s.win w).size := fitsLeg_iff (s := H)
      refine ⟨fun hu => ?_, fun hu hf => ?_, fun hu hf => ?_⟩ <;> rw [hrun]
      · simp only [Bool.eq_false_iff.mpr (mt hup.mp hu), Bool.not_false, if_true, respond_refuse]
      · simp only [hup.mpr hu, Bool.eq_false_iff.mpr (mt hfit.mp hf), Bool.not_false, Bool.not_true, Bool.false_eq_true, if_true, if_false,
          respond_refuse]
      · simp only [hup.mpr hu, hfit.mpr hf, Bool.not_true, Bool.false_eq_true, if_false, respond_finish]
  case effects =>
    intro taken
    have htaken : reseeded s w l = taken := rfl
    refine ⟨fun ha => ?_, fun ha => ?_⟩
    · rw [reseed_eq he h hm hn, if_neg (by simp [ha]), htaken]
    · have hnodup : (((reseeded s w l).win w).members.map (·.leg)).Nodup := by
        have hwin : (reseeded s w l).win w = reseededWindow s w l := setWin_win_self s w _
        have hlegs : (reseededWindow s w l).members.map (·.leg) = (s.win w).members.map (·.leg) := by
          rw [reseededWindow, List.map_map]
          exact List.map_congr_left fun m _ => by simp only [Function.comp_apply, reseededMember]; split <;> rfl
        rw [hwin, hlegs]
        exact hn
      rw [reseed_eq he h hm hn, if_pos ha, queueAutoJobs_eq hnodup, htaken]

end Sys2Proof.Machine
end

section
/-! SUPPORT. The answers of a datapath reset (R65, R86, R161) and MEMBER_ADD (R25, R26). -/

namespace Sys2Proof.Machine

open Sys2Proof.Safety

/-! ## The answers of a datapath reset -/

/-- Whatever the free choices, a merge holds both units' items, each unit's own in its own order. -/
theorem mergeItems_interleaves (n c : Nat) (as bs : List AnswerItem) :
    (mergeItems n c as bs).items.Perm (as ++ bs) ∧ as.Sublist (mergeItems n c as bs).items ∧
      bs.Sublist (mergeItems n c as bs).items := by
  induction n generalizing c as bs with
  | zero => exact ⟨.refl _, List.sublist_append_left as bs, List.sublist_append_right as bs⟩
  | succ n ih =>
    match as, bs with
    | [], bs => exact ⟨.refl _, List.nil_sublist _, List.Sublist.refl _⟩
    | a :: as, [] => exact ⟨by simp [mergeItems], List.Sublist.refl _, List.nil_sublist _⟩
    | a :: as, b :: bs =>
      by_cases hw : Config.writeItemFirst c = true
      · obtain ⟨hperm, has, hbs⟩ := ih (c + 1) as (b :: bs)
        simp only [mergeItems, if_pos hw]
        exact ⟨hperm.cons a, has.cons_cons a, hbs.cons a⟩
      · obtain ⟨hperm, has, hbs⟩ := ih (c + 1) (a :: as) bs
        simp only [mergeItems, if_neg hw]
        exact ⟨(hperm.cons b).trans List.perm_middle.symm, has.cons b, hbs.cons_cons b⟩

/-- Settles O17: the items are the merge of the two units' items. -/
theorem resetAnswersEveryOpenRequestOnce : Obligations.ResetAnswersEveryOpenRequestOnce := by
  intro s
  have hreads : resetReadItems s = s.reads.flatMap fun e =>
      (List.range (e.beatsTotal - e.delivered)).map fun k => .beat e.tag (e.delivered + k) .fault (List.replicate 16 0) := by
    simp only [resetReadItems, faultBeats_eq]
  refine ⟨(resetItems s).items, rfl, ?_⟩
  rw [← hreads]
  exact mergeItems_interleaves _ _ _ _

/-! ## MEMBER_ADD -/

/-- The table of R25, its argument bytes read. -/
theorem cmdMemberAdd_eq {s : State} (w : WinIx) (l : LegIx) {base : Nat} (hr : inReset s = false) (hb : base < 2 ^ 48)
    (ha : base % 65536 = 0) :
    cmdMemberAdd (winToByte w :: legToByte l :: leBytes 6 base) s =
      if (s.win w).state != .enabled then refuse .state s
      else if (memberOf s w l).isSome then refuse .arg s
      else if 4 ≤ (s.win w).members.length then refuse .full s
      else if extentTaken s none l base (s.win w).bytes then refuse .overlap s
      else finish .done (addMember w l base s) := by
  have hgood : ((leBytes 6 base).length != 6 || !aligned base) = false := by simp [aligned_iff.mpr ha]
  simp only [cmdMemberAdd, hr, winArg_winToByte, legArg_legToByte, hgood, leNat_leBytes_six hb, Bool.false_eq_true, if_false]
  rfl

/-- An extent overlaps some ENABLED or DRAINING window's. -/
theorem extentTaken_all {s : State} {l : LegIx} {base bytes : Nat} :
    extentTaken s none l base bytes = true ↔ ExtentOverlaps s (fun _ => True) l base bytes := by
  rw [extentTaken_iff]
  simp [ExtentOverlaps]

theorem memberOf_isSome {s : State} {w : WinIx} {l : LegIx} :
    (memberOf s w l).isSome = true ↔ ∃ m ∈ (s.win w).members, m.leg = l := by
  simp [memberOf, List.find?_isSome]

/-- The state once the member has joined the list and ADDED is offered (R26). -/
def memberAdded (s : State) (w : WinIx) (l : LegIx) (base : Nat) : State :=
  post (.memberChange w l .added (some .stale))
    (modWin w (fun x => { x with members := x.members ++ [addedMember l base] }) s)

theorem addMember_eq (s : State) (w : WinIx) (l : LegIx) (base : Nat) :
    addMember w l base s = (if (s.leg l).state = .up then
      if fitsLeg (s.leg l) base (s.win w).size then
        if (s.win w).autoRebuild then queueAuto w l (memberAdded s w l base) else memberAdded s w l base
      else post (.capacityMismatch w l (capacityOf s l)) (memberAdded s w l base)
      else memberAdded s w l base).raise := by
  have hup : isUp (memberAdded s w l base) l = true ↔ (s.leg l).state = .up := isUp_iff
  have hwin : (memberAdded s w l base).win w =
      { s.win w with members := (s.win w).members ++ [addedMember l base] } := setWin_win_self s w _
  have hafter : addMember w l base s = (afterAdd w l base (memberAdded s w l base)).raise := rfl
  rw [hafter, afterAdd, hwin]
  by_cases hu : (s.leg l).state = .up
  · rw [if_pos (hup.mpr hu), if_pos hu]; rfl
  · rw [if_neg (mt hup.mp hu), if_neg hu]

/-- Settles O26: the table of `cmdMemberAdd_eq`, and the cases of `addMember_eq`. -/
theorem memberAddAppendsAStaleMember : Obligations.MemberAddAppendsAStaleMember := by
  refine ⟨fun s q w l base hl hp hb ha => ?table, fun s w l base => ?effects⟩
  case table =>
    intro args H answer bytes
    have hrun : answer = .next (respond q (cmdMemberAdd args H)) :=
      exec_heard (c := .memberAdd q args) rfl (by simp [args]) hl
    have hwin : H.win w = s.win w := rfl
    have hmember : (memberOf H w l).isSome = true ↔ ∃ m ∈ (s.win w).members, m.leg = l := memberOf_isSome (s := H)
    have htaken : extentTaken H none l base (s.win w).bytes = true ↔ ExtentOverlaps s (fun _ => True) l base bytes :=
      extentTaken_all (s := H)
    rw [cmdMemberAdd_eq (s := H) w l (inReset_eq_false.mpr hp) hb ha, hwin] at hrun
    refine ⟨fun h => ?_, fun he hm => ?_, fun he hm => ?_⟩
    · rw [hrun, if_pos (by simpa using h), respond_refuse]
    · rw [hrun, if_neg (by simp [he]), if_pos (hmember.mpr hm), respond_refuse]
    · have hfree : ¬ (memberOf H w l).isSome = true := by
        rw [hmember]
        rintro ⟨m, hmem, hleg⟩
        exact hm m hmem hleg
      rw [if_neg (by simp [he]), if_neg hfree] at hrun
      refine ⟨fun h => ?_, fun h ho => ?_, fun h ho => ?_⟩
      · rw [hrun, if_pos h, respond_refuse]
      · rw [hrun, if_neg (by omega), if_pos (htaken.mpr ho), respond_refuse]
      · rw [hrun, if_neg (by omega), if_neg (mt htaken.mp ho), respond_finish]
  case effects =>
    intro added
    have hadded : added = memberAdded s w l base := rfl
    have hfit : fitsLeg (s.leg l) base (s.win w).size = true ↔ Fits s l base (s.win w).size := fitsLeg_iff
    refine ⟨fun hu => ?_, fun hu hf => ?_, fun hu hf hauto => ?_, fun hu hf hauto hj => ?_, fun hu hf hauto hj => ?_⟩ <;>
      rw [addMember_eq]
    · rw [if_neg hu]; rfl
    · rw [if_pos hu, if_neg (mt hfit.mp hf)]; rfl
    · rw [if_pos hu, if_pos (hfit.mpr hf), if_neg (by simp [hauto])]; rfl
    · have hroom : (memberAdded s w l base).jobs.length < 8 := hj
      rw [if_pos hu, if_pos (hfit.mpr hf), if_pos hauto, queueAuto_eq, autoQueued, if_pos hroom]; rfl
    · have hroom : ¬ (memberAdded s w l base).jobs.length < 8 := Nat.not_lt.mpr hj
      rw [if_pos hu, if_pos (hfit.mpr hf), if_pos hauto, queueAuto_eq, autoQueued, if_neg hroom]; rfl

end Sys2Proof.Machine
end

section
/-! SUPPORT. The slot queries MEMBER_GET, STALE_COUNT and STALE_LIST (R43, R96, R97): their results as R182 and R191 lay them out. -/

namespace Sys2Proof.Machine

open Sys2Proof.Safety

/-- The flag bits of MEMBER_GET: WHOLE, bound, lead (R191). -/
theorem natByte_slotFlags (a b c : Bool) :
    natByte ((if a then 1 else 0) + (if b then 2 else 0) + (if c then 4 else 0)) =
      (if a then (1 : Byte) else 0) ||| (if b then 2 else 0) ||| (if c then 4 else 0) := by
  revert a b c; decide

theorem toNat_serial (v : Option (BitVec 32)) : (v.getD 0).toNat = (v.map (·.toNat)).getD 0 := by
  cases v <;> rfl

/-! ## The tables, their argument bytes read -/

section
variable {s : State} {w : WinIx} {l : LegIx}

theorem cmdMemberGet_eq : cmdMemberGet [winToByte w, legToByte l] s =
    match memberOf s w l with
    | some m => report (memberBytes s w m) s
    | none => refuse .arg s := by
  simp only [cmdMemberGet, winArg_winToByte, legArg_legToByte] <;> rfl

theorem cmdStaleCount_eq : cmdStaleCount [winToByte w, legToByte l] s =
    match memberOf s w l with
    | some m => report (staleCountBytes s w m) s
    | none => refuse .arg s := by
  simp only [cmdStaleCount, winArg_winToByte, legArg_legToByte] <;> rfl

theorem cmdStaleList_noMember (h : memberOf s w l = none) (start : Nat) :
    cmdStaleList (winToByte w :: legToByte l :: leBytes 4 start) s = refuse .arg s := by
  simp only [cmdStaleList, leBytes, winArg_winToByte, legArg_legToByte, h]

theorem cmdStaleList_member {m : Member} (h : memberOf s w l = some m) {start : Nat} (hs : start < 16777216) :
    cmdStaleList (winToByte w :: legToByte l :: leBytes 4 start) s = report (staleListBytes s w m start) s := by
  have hread : leNat (leBytes 4 start) = start := leNat_leBytes_four (by omega)
  simp only [leBytes] at hread
  simp only [cmdStaleList, leBytes, winArg_winToByte, legArg_legToByte, h, hread, Config.maxWindowSize, hs, if_true]

end

/-! ## The obligation -/

/-- A window over 15 and a leg over 3 name no slot. -/
theorem badOperand_slot {code : Byte} (hc : code ∈ [(0x22 : Byte), 0x50, 0x51]) {b c : Byte} {rest : List Byte}
    (h : 15 < b.toNat ∨ 3 < c.toNat) : BadOperand code (b :: c :: rest) := by
  simp only [List.mem_cons, List.not_mem_nil, or_false] at hc
  rcases h with h | h
  · exact .inl ⟨by rcases hc with rfl | rfl | rfl <;> decide, h⟩
  · exact .inr (.inl ⟨by rcases hc with rfl | rfl | rfl <;> decide, h⟩)

/-- Settles O28: the tables above, with the layouts of R191 and R182 read off the member. -/
theorem slotQueriesReportTheSlot : Obligations.SlotQueriesReportTheSlot := by
  have get {s : State} (q : Byte) (hl : Listening s) (b c : Byte) :
      exec (.memberGet q [b, c]) s = .next (respond q (cmdMemberGet [b, c] (heard 0x22 q [b, c] s))) :=
    exec_heard (c := .memberGet q [b, c]) rfl (by simp) hl
  have count {s : State} (q : Byte) (hl : Listening s) (b c : Byte) :
      exec (.staleCount q [b, c]) s = .next (respond q (cmdStaleCount [b, c] (heard 0x50 q [b, c] s))) :=
    exec_heard (c := .staleCount q [b, c]) rfl (by simp) hl
  have list {s : State} (q : Byte) (hl : Listening s) (b c : Byte) (start : Nat) :
      exec (.staleList q (b :: c :: leBytes 4 start)) s =
        .next (respond q (cmdStaleList (b :: c :: leBytes 4 start) (heard 0x51 q (b :: c :: leBytes 4 start) s))) :=
    exec_heard (c := .staleList q (b :: c :: leBytes 4 start)) rfl (by simp) hl
  refine ⟨fun s q b c hl h => ⟨?_, ?_, fun start => ?_⟩, fun s q w l hl => ?slot⟩
  · rw [get q hl, cmdMemberGet_badArgs (.inr (badOperand_slot (by decide) h)), respond_refuse]
  · rw [count q hl, cmdStaleCount_badArgs (.inr (badOperand_slot (by decide) h)), respond_refuse]
  · rw [list q hl, cmdStaleList_badArgs (.inr (badOperand_slot (by decide) h)), respond_refuse]
  case slot =>
    intro a
    have hmember (code : Byte) (args : List Byte) : memberOf (heard code q args s) w l = memberOf s w l := rfl
    refine ⟨fun m hm => ?member, fun hm => ?absent⟩
    case member =>
      have hleg : m.leg = l := memberOf_leg hm
      refine ⟨?_, ?_, fun start hs => ?_⟩
      · rw [get q hl, cmdMemberGet_eq, hmember, hm, respond_report]
        subst hleg
        simp only [memberBytes, natByte_slotFlags, toNat_serial]
        rfl
      · rw [count q hl, cmdStaleCount_eq, hmember, hm, respond_report]
        subst hleg
        rfl
      · refine (list q hl _ _ start).trans ?_
        rw [cmdStaleList_member ((hmember _ _).trans hm) hs, respond_report]
        subst hleg
        rfl
    case absent =>
      refine ⟨?_, ?_, fun start => ?_⟩
      · rw [get q hl, cmdMemberGet_eq, hmember, hm, respond_refuse]
      · rw [count q hl, cmdStaleCount_eq, hmember, hm, respond_refuse]
      · refine (list q hl _ _ start).trans ?_
        rw [cmdStaleList_noMember ((hmember _ _).trans hm), respond_refuse]
        rfl

end Sys2Proof.Machine
end

section
/-! SUPPORT. Leg states (R128 to R133, R147, R149): enabling, disabling, READY, the identity exchange, the timeout setting. -/

namespace Sys2Proof.Machine

open Sys2Proof.Safety

/-! ## Changes of leg state -/

theorem setLeg_setLeg (s : State) (l : LegIx) (p q : LegPort) : (s.setLeg l p).setLeg l q = s.setLeg l q := by
  simp only [State.setLeg, Vector.set_set]

theorem setLegState_eq (s : State) (l : LegIx) (n : LegState) (c : LegCause) :
    setLegState l n c s = { s.setLeg l { s.leg l with state := n } with
      events := s.events.offer (.legChange l c (s.leg l).state n), notice := Notice.full } := rfl

/-- A change of state after a change of the leg's other fields. -/
theorem setLegState_setLeg (s : State) (l : LegIx) (p : LegPort) (n : LegState) (c : LegCause) :
    setLegState l n c (s.setLeg l p) = { s.setLeg l { p with state := n } with
      events := s.events.offer (.legChange l c p.state n), notice := Notice.full } := by
  rw [setLegState_eq, setLeg_leg_self, setLeg_setLeg]
  rfl

theorem enterIdentifying_setLeg (s : State) (l : LegIx) (p : LegPort) (c : LegCause) :
    enterIdentifying l c (s.setLeg l p) =
      { s.setLeg l { p with state := .identifying, identityTimer := some p.timeout, sent := some .identityRequest } with
        events := s.events.offer (.legChange l c p.state .identifying), notice := Notice.full } := by
  have hleg : (setLegState l .identifying c (s.setLeg l p)).leg l = { p with state := .identifying } := by
    rw [setLegState_setLeg]
    exact setLeg_leg_self s l _
  rw [enterIdentifying, modLeg, hleg, setLegState_setLeg]
  simp only [State.setLeg, Vector.set_set]

theorem setLeg_leg (s : State) (l : LegIx) : s.setLeg l (s.leg l) = s := by
  have hset : s.legs.set l (s.legs[l]) = s.legs := Vector.set_getElem_self _
  simp only [State.setLeg, State.leg, hset]

theorem enterIdentifying_eq (s : State) (l : LegIx) (c : LegCause) :
    enterIdentifying l c s =
      { s.setLeg l { s.leg l with
          state := .identifying, identityTimer := some (s.leg l).timeout, sent := some .identityRequest } with
        events := s.events.offer (.legChange l c (s.leg l).state .identifying), notice := Notice.full } := by
  have h := enterIdentifying_setLeg s l (s.leg l) c
  rwa [setLeg_leg] at h

/-- The identity exchange ends with a change of state. -/
theorem setLegState_stopIdentity (s : State) (l : LegIx) (n : LegState) (c : LegCause) :
    setLegState l n c (stopIdentity l s) = { s.setLeg l { s.leg l with state := n, identityTimer := none } with
      events := s.events.offer (.legChange l c (s.leg l).state n), notice := Notice.full } :=
  setLegState_setLeg s l _ n c

/-! ## LEG_ENABLE and LEG_DISABLE (R129, R130) -/

theorem cmdLegEnable_eq {s : State} (l : LegIx) (hr : inReset s = false) :
    cmdLegEnable [legToByte l] s =
      if (s.leg l).state = .off ∨ (s.leg l).state = .faulted then finish .done (enableLeg l s) else refuse .state s := by
  simp [cmdLegEnable, hr]

theorem cmdLegDisable_eq {s : State} (l : LegIx) (hr : inReset s = false) :
    cmdLegDisable [legToByte l] s = finish .done (disableLeg l s) := by
  simp [cmdLegDisable, hr]

/-- Settles O30: `enableLeg` and `disableLeg`, state by state. -/
theorem legCommandsMoveTheLeg : Obligations.LegCommandsMoveTheLeg := by
  intro s q l hl hp p E D on off
  have hon : on = .next (respond q (cmdLegEnable [legToByte l] E)) :=
    exec_heard (c := .legEnable q [legToByte l]) rfl (by simp) hl
  have hoff : off = .next (answered q .done [] (react (disableLeg l D))) := by
    have hrun : off = .next (respond q (cmdLegDisable [legToByte l] D)) :=
      exec_heard (c := .legDisable q [legToByte l]) rfl (by simp) hl
    rw [hrun, cmdLegDisable_eq (s := D) l (inReset_eq_false.mpr hp), respond_finish]
  have hleg (code : Byte) (args : List Byte) : (heard code q args s).leg l = p := rfl
  rw [cmdLegEnable_eq (s := E) l (inReset_eq_false.mpr hp), hleg] at hon
  have hdisable (st : LegState) (h : p.state = st) : (D.leg l).state = st := h
  refine ⟨fun h => ?_, fun h hready => ?_, fun h hready => ?_, fun h => ?_, fun h => ?_, fun h => ?_, fun h => ?_⟩
  · rw [hon, if_neg (by rcases h with h | h | h <;> simp [h]), respond_refuse]
  · have hready' : (E.leg l).ready = true := hready
    rw [hon, if_pos h, respond_finish, enableLeg, if_pos hready', enterIdentifying_eq]
    rfl
  · have hready' : ¬ (E.leg l).ready = true := by rw [hleg, hready]; decide
    rw [hon, if_pos h, respond_finish, enableLeg, if_neg hready', setLegState_eq]
    rfl
  · rw [hoff, disableLeg, hdisable _ h]
  · rw [hoff, disableLeg]
    rcases h with h | h <;> rw [hdisable _ h, setLegState_eq] <;> rfl
  · rw [hoff, disableLeg, hdisable _ h]
    simp only [setLegState_stopIdentity, hleg, h, D]
    rfl
  · rw [hoff, disableLeg, hdisable _ h]

/-! ## LEG_GET and LEG_SET_TIMEOUT (R147, R149) -/

theorem cmdLegGet_eq (s : State) (l : LegIx) : cmdLegGet [legToByte l] s = report (legBytes (s.leg l)) s := by
  simp [cmdLegGet]

theorem cmdLegSetTimeout_eq {s : State} (l : LegIx) {us : Nat} (hr : inReset s = false) (h1 : 1 ≤ us) (h2 : us ≤ 4095) :
    cmdLegSetTimeout (legToByte l :: leBytes 2 us) s =
      { state := s.setLeg l { s.leg l with timeout := us }, status := .done, results := [] } := by
  have hread : leNat (leBytes 2 us) = us := leNat_leBytes_two (by omega)
  simp only [leBytes] at hread
  simp only [cmdLegSetTimeout, hr, leBytes, legArg_legToByte, hread, Config.maxTimeout, h1, h2, decide_true, Bool.and_self, if_true,
    Bool.false_eq_true, if_false]
  rfl

/-- Settles O31. -/
theorem legGetAndTimeoutSetting : Obligations.LegGetAndTimeoutSetting := by
  intro s q l hl p n
  refine ⟨?get, fun us h1 h2 hp => ?set⟩
  case get =>
    have hrun : exec (.legGet q [legToByte l]) s =
        .next (respond q (cmdLegGet [legToByte l] (heard 0x32 q [legToByte l] s))) :=
      exec_heard (c := .legGet q [legToByte l]) rfl (by simp) hl
    rw [hrun, cmdLegGet_eq, respond_report]
    have hbytes : legBytes ((heard 0x32 q [legToByte l] s).leg l) = legBytes p := rfl
    rw [hbytes, legBytes]
    rcases hst : p.state <;> rcases hid : p.identity <;> rfl
  case set =>
    have hrun : exec (.legSetTimeout q (legToByte l :: leBytes 2 us)) s =
        .next (respond q (cmdLegSetTimeout (legToByte l :: leBytes 2 us) (heard 0x33 q (legToByte l :: leBytes 2 us) s))) :=
      exec_heard (c := .legSetTimeout q (legToByte l :: leBytes 2 us)) rfl (by simp) hl
    rw [hrun, cmdLegSetTimeout_eq l ((heard_inReset _ _ _ _).trans (inReset_eq_false.mpr hp)) h1 h2]
    rfl

/-! ## READY (R128) -/

/-- Settles O32: `readyRises` and `readyFalls`, state by state. -/
theorem readyChangesMoveTheLeg : Obligations.ReadyChangesMoveTheLeg := by
  intro s l p
  have hrise : readyRises l s = if p.state = .down then enterIdentifying l .readyRise (s.setLeg l { p with ready := true })
      else s.setLeg l { p with ready := true } := by
    simp only [readyRises, beq_iff_eq]
    rfl
  have rise {u : State} (h : readyRises l s = u) : exec (.readyRise l) s = .next (react u) := h ▸ rfl
  have fall {u : State} (h : readyFalls l s = u) : exec (.readyFall l) s = .next (react u) := h ▸ rfl
  refine ⟨fun h => rise ?_, fun h => rise ?_, fun h => fall ?_, fun h => fall ?_, fun h => fall ?_, fun h => fall ?_⟩
  · rw [hrise, if_pos h, enterIdentifying_setLeg, h]
  · rw [hrise, if_neg h]
  · rcases h with h | h <;> simp only [readyFalls, show (s.leg l).state = _ from h] <;> rfl
  · simp only [readyFalls, show (s.leg l).state = _ from h, setLegState_stopIdentity, modLeg, setLeg_leg_self, setLeg_setLeg]
    rfl
  · simp only [readyFalls, show (s.leg l).state = _ from h, modLeg, setLegState_setLeg]
    rfl
  · simp only [readyFalls, show (s.leg l).state = _ from h]
    rfl

/-! ## The identity exchange (R132, R133) -/

/-- A record out of range is no record. -/
theorem identityRecord_eq_none {a : IdentityAnswer}
    (h : a = .error ∨ ∃ v c r, a = .record v c r ∧ (c = 0 ∨ 268435456 < c)) : identityRecord a = none := by
  rcases h with rfl | ⟨v, c, r, rfl, hc⟩
  · rfl
  · have hmax : Config.maxCapacity = 268435456 := rfl
    exact if_neg (by simp only [Bool.and_eq_true, decide_eq_true_eq]; omega)

theorem identityRecord_of_range (v : BitVec 32) {c : Nat} (r : Byte) (h1 : 1 ≤ c) (h2 : c ≤ 268435456) :
    identityRecord (.record v c r) = some { serial := v, capacity := c, revision := r } :=
  if_pos (by simp [Config.maxCapacity, h1, h2])

/-- Settles O33. -/
theorem identityExchangeEndsUpOrFaulted : Obligations.IdentityExchangeEndsUpOrFaulted := by
  intro s l p
  have answer (hr : s.resetAsserted = false) (a : IdentityAnswer) {u : State} (h : takeIdentity l a s = u) :
      exec (.identityAnswer l a) s = .next (react u) := by
    subst h
    exact congrArg Host.Outcome.next (if_neg (by simp [hr]))
  have expiry {u : State} (h : identityExpires l s = u) : exec (.identityTimeout l) s = .next (react u) := h ▸ rfl
  refine ⟨fun hr a => congrArg Host.Outcome.next (if_pos hr), fun hr h a => answer hr a ?_, fun hr h v c r h1 h2 => answer hr _ ?_,
    fun hr h a ha => answer hr a ?_, fun h => expiry ?_, fun h => expiry ?_⟩
  · simp only [takeIdentity, show ((s.leg l).state == .identifying) = false from by simpa using h, Bool.false_eq_true, if_false]
  · simp only [takeIdentity, show ((s.leg l).state == .identifying) = true from by simpa using h, if_true,
      identityRecord_of_range v r h1 h2, identified, modLeg, setLegState_setLeg]
    rw [show (s.leg l).state = .identifying from h]
  · simp only [takeIdentity, show ((s.leg l).state == .identifying) = true from by simpa using h, if_true, identityRecord_eq_none ha,
      setLegState_stopIdentity]
    rw [show (s.leg l).state = .identifying from h]
  · simp only [identityExpires, show ((s.leg l).state == .identifying) = true from by simpa using h, if_true, setLegState_stopIdentity]
    rw [show (s.leg l).state = .identifying from h]
  · simp only [identityExpires, show ((s.leg l).state == .identifying) = false from by simpa using h, Bool.false_eq_true, if_false]

end Sys2Proof.Machine
end

section
/-! SUPPORT. Answers taken (R155, R158), the end of a datapath reset (R162, R187), additions to the stale segment store (R89, R90), event
records stored, popped and laid out (R165 to R169, R192). -/

namespace Sys2Proof.Machine

open Sys2Proof.Safety

/-- A step that reacts to a state reacts to whatever equals it. -/
theorem reacts {c : Instr} {s t u : State} (h : exec c s = .next (react t)) (e : t = u) : exec c s = .next (react u) := e ▸ h

/-! ## Answers taken -/

/-- Settles O46: `takeAnswer`, and `countDown` record by record. -/
theorem takenAnswersCountTagsDown : Obligations.TakenAnswersCountTagsDown := by
  refine ⟨fun s h => ?none, fun s a rest h => ?some, fun t x rs => ⟨fun h => ?other, fun h hd => ?last, fun n h hd => ?more⟩⟩
  case none =>
    have htake : takeAnswer s = s := by simp only [takeAnswer, h]
    exact reacts (c := .answerItemTaken) rfl htake
  case some =>
    refine reacts (c := .answerItemTaken) rfl ?_
    simp only [takeAnswer, h]
    split
    next hlt => simp only [State.raiseHead, hlt, decide_true, Bool.or_true]
    next hlt => simp only [State.raiseWork, hlt, decide_false, Bool.or_false]
  case other => exact List.filterMap_cons_some (if_neg (by simpa using h))
  case last =>
    refine List.filterMap_cons_none ((if_pos (by simpa using h)).trans ?_)
    rcases hd with hd | hd | hd <;> simp only [hd]
  case more =>
    refine List.filterMap_cons_some ((if_pos (by simpa using h)).trans ?_)
    simp only [hd]

/-! ## The end of a datapath reset -/

theorem linkClear_iff {s : State} :
    linkClear s = true ↔ s.writes = [] ∧ s.reads = [] ∧ s.link.answers = [] ∧ s.link.tags = [] := by
  simp [linkClear, and_assoc]

theorem present_of_noHead {s : State} (h : s.link.head = none) : present s = s := by
  simp only [present, h]

/-- Settles O50: the test of `finishReset`. -/
theorem resetDoneEndsTheDatapathReset : Obligations.ResetDoneEndsTheDatapathReset := by
  refine ⟨fun s h => ?_, fun s hp hw hr ha ht => ?_⟩
  · have hstay : ¬ (s.port.progress == .clearing && linkClear s) = true := by
      rw [Bool.and_eq_true, beq_iff_eq, linkClear_iff]
      tauto
    exact reacts (c := .resetDone) rfl (if_neg hstay)
  · intro u
    have hgo : (s.port.progress == .clearing && linkClear s) = true := by
      rw [Bool.and_eq_true, beq_iff_eq, linkClear_iff]
      exact ⟨hp, hw, hr, ha, ht⟩
    have hdone : exec .resetDone s = .next (react (present u).raiseWork) :=
      reacts (c := .resetDone) rfl (if_pos hgo)
    refine ⟨hdone, fun hh => ?_⟩
    rw [hdone, present_of_noHead (s := u) hh]
    rfl

/-! ## Additions to the store -/

/-- An insertion of a new triple is at one place of the store. -/
theorem storeInsert_splits {e : StaleEntry} {st : List StaleEntry} (h : e ∉ st) :
    ∃ before after, st = before ++ after ∧ storeInsert e st = before ++ e :: after := by
  induction st with
  | nil => exact ⟨[], [], rfl, rfl⟩
  | cons x xs ih =>
    obtain ⟨hx, hxs⟩ := List.ne_and_not_mem_of_not_mem_cons h
    by_cases hb : e.before x = true
    · exact ⟨[], x :: xs, rfl, if_pos hb⟩
    · obtain ⟨before, after, hst, hins⟩ := ih hxs
      refine ⟨x :: before, after, by rw [hst]; rfl, ?_⟩
      rw [storeInsert, if_neg hb, if_neg (by simpa using hx), hins]
      rfl

section
variable {s : State} {w : WinIx} {l : LegIx} {m : Member}

theorem addStale_noMember (h : memberOf s w l = none) (g : Nat) : addStale w l g s = s := by
  simp only [addStale, h]

/-- A slot that is not STALE, or is WHOLE, takes no entry. -/
theorem addStale_closed (h : memberOf s w l = some m) (hm : m.state ≠ some .stale ∨ m.whole = true) (g : Nat) :
    addStale w l g s = s := by
  have hclosed : (m.state != some .stale || m.whole) = true := by simpa using hm
  simp only [addStale, h, hclosed, if_true]

/-- The additions of a slot that is STALE and not WHOLE. -/
theorem addStale_open (h : memberOf s w l = some m) (hs : m.state = some .stale) (hw : m.whole = false) (g : Nat) :
    addStale w l g s =
      if s.store.contains { window := w, leg := l, segment := g } then s
      else if s.store.length < 4096 then { s with store := storeInsert { window := w, leg := l, segment := g } s.store }
      else post (.staleOverflow w l g) (freeSlot w l (modMember w l (fun m => { m with whole := true }) s)) := by
  have hopen : (m.state != some .stale || m.whole) = false := by simp [hs, hw]
  simp only [addStale, h, hopen, Bool.false_eq_true, if_false]
  rfl

end

/-- A change of a slot, as the statements write it. -/
theorem modMember_eq (w : WinIx) (l : LegIx) (f : Member → Member) (s : State) :
    modMember w l f s =
      s.setWin w { s.win w with members := (s.win w).members.map fun k => if k.leg = l then f k else k } := by
  simp only [modMember, modWin, beq_iff_eq]

/-- Settles O52: the conditions of `addStale` in their order; `storeLaw_insert` keeps the law. -/
theorem staleAdditionsFollowTheTable : Obligations.StaleAdditionsFollowTheTable := by
  intro s w l g e
  refine ⟨fun h => addStale_noMember h g, fun m hm => ⟨fun h => addStale_closed hm h g, fun hs hw he => ?present, fun hs hw he hl => ?room,
    fun hs hw he hl => ?full⟩⟩
  case present => rw [addStale_open hm hs hw, if_pos (by simpa using he)]
  case room =>
    have hadd : addStale w l g s = { s with store := storeInsert e s.store } := by
      rw [addStale_open hm hs hw, if_neg (by simpa using he), if_pos hl]
    rw [hadd]
    refine ⟨?_, fun hlaw => storeLaw_insert hlaw hl ⟨m, hm, .inl hs, hw⟩⟩
    obtain ⟨before, after, hst, hins⟩ := storeInsert_splits he
    exact ⟨before, after, hst, by rw [hins]⟩
  case full =>
    rw [addStale_open hm hs hw, if_neg (by simpa using he), if_neg (by omega), modMember_eq]
    rfl

/-! ## Event records -/

/-- The table of R165. -/
theorem offer_eq (e : EventUnit) (r : EventRec) :
    e.offer r = if e.mask.getLsbD r.kind.code = true then e
      else if e.queue.length < 32 then { e with queue := e.queue ++ [{ seq := e.nextSeq, record := r }], nextSeq := e.nextSeq + 1 }
      else { e with drop := min 255 (e.drop + 1) } := rfl

theorem cmdEventPop_empty {s : State} (h : s.events.queue = []) : cmdEventPop [] s = refuse .empty s := by
  simp only [cmdEventPop, h, List.head?_nil]

theorem cmdEventPop_head {s : State} {r : StoredEvent} {rest : List StoredEvent} (h : s.events.queue = r :: rest) :
    cmdEventPop [] s =
      { state := { s with events := s.events.pop }, status := .done, results := eventBytes r s.events.pop.queue.length } := by
  simp only [cmdEventPop, h, List.head?_cons]

theorem pop_noDrop {e : EventUnit} {r : StoredEvent} {rest : List StoredEvent} (h : e.queue = r :: rest) (hd : e.drop = 0) :
    e.pop = { e with queue := rest } := by
  rw [EventUnit.pop, if_pos (by simpa using hd), h]
  rfl

theorem pop_drop {e : EventUnit} {r : StoredEvent} {rest : List StoredEvent} (h : e.queue = r :: rest) (hd : e.drop ≠ 0) :
    e.pop = { e with queue := rest ++ [{ seq := e.nextSeq, record := .overrun e.drop }], nextSeq := e.nextSeq + 1, drop := 0 } := by
  rw [EventUnit.pop, if_neg (by simpa using hd), EventUnit.push, h]
  rfl

/-- Settles O53: `offer_eq`, `pop_noDrop` and `pop_drop`; the codes and the layouts are read off their definitions. -/
theorem eventRecordsAreStoredAndPopped : Obligations.EventRecordsAreStoredAndPopped := by
  refine ⟨fun e r => ?offer, rfl, fun s q hl => ?pop, rfl, rfl, rfl, fun n k w l => ?layout⟩
  case offer =>
    refine ⟨fun h => ?_, fun h hf => ?_, fun h hf => ?_⟩ <;> rw [offer_eq]
    · rw [if_pos h]
    · rw [if_neg (by simp [h]), if_neg (by omega)]
    · rw [if_neg (by simp [h]), if_pos hf]
  case pop =>
    intro H
    have hrun : exec (.eventPop q []) s = .next (respond q (cmdEventPop [] H)) :=
      exec_heard (c := .eventPop q []) rfl (by simp) hl
    refine ⟨fun h => ?_, fun r rest h => ⟨fun hd => ?_, fun hd => ?_⟩⟩ <;> rw [hrun]
    · rw [cmdEventPop_empty (s := H) h, respond_refuse]
    · rw [cmdEventPop_head (s := H) h, show H.events.pop = _ from pop_noDrop h hd]
      rfl
    · rw [cmdEventPop_head (s := H) h, show H.events.pop = _ from pop_drop h hd, List.length_append]
      rfl
  case layout =>
    intro record leg health slot W L
    refine ⟨fun c o v => ?_, fun c v => ?_, fun v => rfl, fun o v => ?_, rfl, fun j => rfl, fun j => rfl, fun j => rfl,
      fun c j => rfl, fun g => rfl, fun c => rfl, rfl, rfl, fun d => rfl⟩
    · cases o <;> cases v <;> rfl
    · rcases v with _ | v
      · rfl
      · cases v <;> rfl
    · rcases o with _ | o
      · cases v <;> rfl
      · cases o <;> cases v <;> rfl

end Sys2Proof.Machine
end

section
/-! SUPPORT. The rebuild commands (R102 to R104). -/

namespace Sys2Proof.Machine

open Sys2Proof.Safety

/-! ## RESYNC_QUEUE and RESYNC_CANCEL -/

/-- The mode byte of R182. -/
theorem modeArg_of_code {mode : JobMode} {b : Byte}
    (h : mode = .full ∧ b = 0 ∨ mode = .stale ∧ b = 1 ∨ mode = .auto ∧ b = 2) : modeArg b = some mode := by
  rcases h with ⟨rfl, rfl⟩ | ⟨rfl, rfl⟩ | ⟨rfl, rfl⟩ <;> rfl

/-- The table of R102, its argument bytes read. -/
theorem cmdResyncQueue_eq {s : State} (w : WinIx) (l : LegIx) {mode : JobMode} {b : Byte} (hr : inReset s = false)
    (hb : modeArg b = some mode) :
    cmdResyncQueue [winToByte w, legToByte l, b] s =
      if (s.win w).state != .enabled || isLost (s.win w) then refuse .state s
      else match memberOf s w l with
        | some m =>
          if hasJob s w l then refuse .duplicate s
          else if m.state != some .stale then refuse .state s
          else if 8 ≤ s.jobs.length then refuse .full s
          else if exceedsRecord (s.leg l) m.base (s.win w).size then refuse .capacity s
          else { state := react (placeJob w l mode s), status := .done, results := [s.nextJob] }
        | none => refuse .arg s := by
  simp only [cmdResyncQueue, hr, winArg_winToByte, legArg_legToByte, hb, Bool.false_eq_true, if_false] <;> rfl

theorem hasJob_iff {s : State} {w : WinIx} {l : LegIx} : hasJob s w l = true ↔ ∃ j ∈ s.jobs, j.window = w ∧ j.target = l := by
  simp [hasJob]

theorem exceedsRecord_iff {s : State} {l : LegIx} {base size : Nat} :
    exceedsRecord (s.leg l) base size = true ↔ (s.leg l).identity.isSome = true ∧ ¬ Fits s l base size := by
  rw [exceedsRecord, Bool.and_eq_true, Bool.not_eq_true', ← Bool.not_eq_true, fitsLeg_iff]

/-- The window takes no job: it is not ENABLED, or it is LOST (R102). -/
theorem noJobs_iff {x : Window} :
    (x.state != .enabled || isLost x) = true ↔ x.state ≠ .enabled ∨ ∀ m ∈ x.members, m.state ≠ some .current := by
  rw [Bool.or_eq_true, isLost_iff, bne_iff_ne]
  by_cases h : x.state = .enabled <;> simp [h]

/-- The table of R103, its argument bytes read. -/
theorem cmdResyncCancel_eq {s : State} (w : WinIx) (l : LegIx) (hr : inReset s = false) :
    cmdResyncCancel [winToByte w, legToByte l] s =
      match s.jobs.find? fun j => j.window == w && j.target == l with
      | some j => finish .done (cancelJob j s)
      | none => refuse .none s := by
  simp only [cmdResyncCancel, hr, winArg_winToByte, legArg_legToByte, Bool.false_eq_true, if_false] <;> rfl

/-! ## RESYNC_GET -/

theorem jobBytes_eq (j : Job) :
    jobBytes j = [j.number, winToByte j.window, legToByte j.target, j.mode.code, if j.running then 1 else 0, legByte j.source] ++
      leBytes 4 (j.segment.getD 0) ++
      [BitVec.ofNat 8 (j.pass.getD 0), (if j.overtaken then (1 : Byte) else 0) ||| (if j.segment.isSome then 2 else 0) |||
        (if j.segmentsTotal.isSome then 4 else 0)] ++
      leBytes 2 j.nextChunk ++ [BitVec.ofNat 8 j.readsOutstanding, BitVec.ofNat 8 j.writesOutstanding] ++
      leBytes 2 j.chunksWritten ++ leBytes 4 j.segmentsDone ++ leBytes 4 (j.segmentsTotal.getD 0) := by
  rw [jobBytes, natByte_slotFlags]
  rfl

theorem respond_done (q : Byte) (rs : List Byte) (t : State) :
    respond q { state := t, status := .done, results := rs } = answered q .done rs t := rfl

/-! ## The obligation -/

/-- Settles O51: BUSY and ARG as for every frame (O8, O9), then the tables above. -/
theorem resyncCommandsQueueCancelAndReport : Obligations.ResyncCommandsQueueCancelAndReport := by
  refine ⟨fun s q b c m hl => ⟨fun hp => ⟨?_, ?_⟩, fun hp => ⟨fun h => ?_, fun h => ?_⟩⟩, fun s q w l mode b hl hp hb => ?queue,
    fun s q w l hl hp => ?cancel, fun s q hl => ?get⟩
  · exact datapathResetAnswersBusy s (.resyncQueue q [b, c, m]) 0x40 q [b, c, m] rfl (by decide) (by simp) hl hp
  · exact datapathResetAnswersBusy s (.resyncCancel q [b, c]) 0x41 q [b, c] rfl (by decide) (by simp) hl hp
  · refine badFramesAreRefused.1 s (.resyncQueue q [b, c, m]) 0x40 q [b, c, m] 3 rfl rfl (by simp) hl (fun _ => hp) (.inr ?_)
    rcases h with h | h | h <;> simp [BadOperand, h]
  · refine badFramesAreRefused.1 s (.resyncCancel q [b, c]) 0x41 q [b, c] 2 rfl rfl (by simp) hl (fun _ => hp) (.inr ?_)
    rcases h with h | h <;> simp [BadOperand, h]
  case queue =>
    intro args H answer lost job queued exceeds
    have hrun : answer = .next (respond q (cmdResyncQueue args H)) :=
      exec_heard (c := .resyncQueue q args) rfl (by simp [args]) hl
    have hmember : memberOf H w l = memberOf s w l := rfl
    have hshut : ((s.win w).state != .enabled || isLost (s.win w)) = true ↔ (s.win w).state ≠ .enabled ∨ lost := noJobs_iff
    have hjob : hasJob H w l = true ↔ job := hasJob_iff (s := H)
    have hexceeds (m : Member) : exceedsRecord (H.leg l) m.base (s.win w).size = true ↔ exceeds m := exceedsRecord_iff (s := H)
    rw [cmdResyncQueue_eq (s := H) w l (inReset_eq_false.mpr hp) (modeArg_of_code hb), hmember,
      show H.win w = s.win w from rfl] at hrun
    refine ⟨fun h => ?_, fun he hlost hm => ?_, fun m he hlost hm => ?_⟩
    · rw [hrun, if_pos (hshut.mpr h), respond_refuse]
    · rw [hrun, if_neg (mt hshut.mp (by simp [he, hlost])), hm]
      exact congrArg _ (respond_refuse _ _ _)
    · rw [if_neg (mt hshut.mp (by simp [he, hlost])), hm] at hrun
      simp only at hrun
      refine ⟨fun h => ?_, fun hj hs => ?_, fun hj hs hlen => ?_, fun hj hs hlen hx => ?_, fun hj hs hlen hx => ?_⟩
      · rw [hrun, if_pos (hjob.mpr h), respond_refuse]
      · rw [hrun, if_neg (mt hjob.mp hj), if_pos (by simpa using hs), respond_refuse]
      · have hfull : 8 ≤ H.jobs.length := hlen
        rw [hrun, if_neg (mt hjob.mp hj), if_neg (by simp [hs]), if_pos hfull, respond_refuse]
      · have hroom : ¬ 8 ≤ H.jobs.length := Nat.not_le.mpr hlen
        rw [hrun, if_neg (mt hjob.mp hj), if_neg (by simp [hs]), if_neg hroom, if_pos ((hexceeds m).mpr hx), respond_refuse]
      · have hroom : ¬ 8 ≤ H.jobs.length := Nat.not_le.mpr hlen
        rw [hrun, if_neg (mt hjob.mp hj), if_neg (by simp [hs]), if_neg hroom, if_neg (mt (hexceeds m).mp hx)]
        have hplaced : placeJob w l mode H =
            { H with jobs := s.jobs ++ [queued], nextJob := s.nextJob + 1, notice := { s.notice with work := true } } := rfl
        rw [hplaced]
        exact congrArg _ (respond_done q _ _)
  case cancel =>
    intro args H answer
    have hrun : answer = .next (respond q (cmdResyncCancel args H)) :=
      exec_heard (c := .resyncCancel q args) rfl (by simp [args]) hl
    rw [cmdResyncCancel_eq (s := H) w l (inReset_eq_false.mpr hp), show H.jobs = s.jobs from rfl] at hrun
    refine ⟨fun h => ?_, fun j hj => ?_⟩
    · have hnone : s.jobs.find? (fun j => j.window == w && j.target == l) = none := by simpa using h
      rw [hrun, hnone]
      exact congrArg _ (respond_refuse _ _ _)
    · obtain ⟨hw, ht⟩ : j.window = w ∧ j.target = l := by simpa using List.find?_some hj
      rw [hj] at hrun
      simp only [respond_finish] at hrun
      refine ⟨fun h => ?_, fun h => ?_⟩ <;> rw [hrun, cancelJob, hw, ht]
      · rw [if_neg (by simp [h])]; rfl
      · rw [if_pos h]
  case get =>
    have hrun : exec (.resyncGet q []) s = .next (respond q (cmdResyncGet [] (heard 0x42 q [] s))) :=
      exec_heard (c := .resyncGet q []) rfl (by simp) hl
    rw [hrun, show cmdResyncGet [] (heard 0x42 q [] s) = report (resyncBytes s) (heard 0x42 q [] s) from rfl, respond_report,
      resyncBytes, engineState_code]
    rw [funext jobBytes_eq]
    rfl

end Sys2Proof.Machine
end

section
/-! SUPPORT. Sending from a leg port (R137, R138) and the overlap rule (R139). -/

namespace Sys2Proof.Machine

open Sys2Proof.Safety

/-! ## The overlap rule -/

/-- No other queue than `q` holds a request older than `r` that overlaps it. -/
def LegPort.Clear (p : LegPort) (q : QueueName) (r : LegRequest) : Prop :=
  ∀ o, o ≠ q → ∀ x ∈ p.queue o, x.age < r.age → ¬ Share r.addr r.length x.addr x.length

theorem blocks_iff {p : LegPort} {q o : QueueName} {r : LegRequest} :
    p.blocks q r o = true ↔ o ≠ q ∧ ∃ x ∈ p.queue o, x.age < r.age ∧ Share r.addr r.length x.addr x.length := by
  simp [LegPort.blocks, overlaps_iff]

/-- The search of R139 finds a blocking queue unless there is none. -/
theorem findBlocking_eq_none {p : LegPort} {q : QueueName} {r : LegRequest} :
    [QueueName.direct, .lag, .copy].find? (p.blocks q r) = none ↔ p.Clear q r := by
  rw [List.find?_eq_none]
  refine ⟨fun h o hoq x hx hage hshare => ?_, fun h o _ hb => ?_⟩
  · exact h o (by cases o <;> decide) (blocks_iff.mpr ⟨hoq, x, hx, hage, hshare⟩)
  · obtain ⟨hoq, x, hx, hage, hshare⟩ := blocks_iff.mp hb
    exact h o hoq x hx hage hshare

section
variable {p : LegPort} {q : QueueName} {r : LegRequest} {rest : List LegRequest}

/-- A candidate that nothing blocks is sent itself. -/
theorem substitute_of_clear (hq : p.queue q = r :: rest) (h : p.Clear q r) (n : Nat) : p.substitute n q = q := by
  cases n with
  | zero => rfl
  | succ n => simp only [LegPort.substitute, hq, List.head?_cons, findBlocking_eq_none.mpr h]

/-- A blocked candidate gives way to a queue that blocks it. -/
theorem substitute_of_blocked (hq : p.queue q = r :: rest) (h : ¬ p.Clear q r) (n : Nat) :
    ∃ o, p.blocks q r o = true ∧ p.substitute (n + 1) q = p.substitute n o := by
  obtain ⟨o, ho⟩ := Option.ne_none_iff_exists'.mp (mt findBlocking_eq_none.mp h)
  exact ⟨o, List.find?_some ho, by simp only [LegPort.substitute, hq, List.head?_cons, ho]⟩

theorem queue_ne_nil_of_blocks {o : QueueName} (h : p.blocks q r o = true) : p.queue o ≠ [] := by
  obtain ⟨-, x, hx, -⟩ := blocks_iff.mp h
  exact List.ne_nil_of_mem hx

/-- The queue chosen holds a request. -/
theorem substitute_ne_nil (n : Nat) (h : p.queue q ≠ []) : p.queue (p.substitute n q) ≠ [] := by
  induction n generalizing q with
  | zero => exact h
  | succ n ih =>
    obtain ⟨r, rest, hq⟩ := List.exists_cons_of_ne_nil h
    by_cases hc : p.Clear q r
    · rwa [substitute_of_clear hq hc]
    · obtain ⟨o, ho, hsub⟩ := substitute_of_blocked hq hc n
      rw [hsub]
      exact ih (queue_ne_nil_of_blocks ho)

/-- In entry order the head of a queue is its oldest request. -/
theorem head_oldest (ha : AgeOrder p) (hq : p.queue q = r :: rest) : ∀ x ∈ p.queue q, r.age ≤ x.age := by
  have hpair : (p.queue q).Pairwise fun a b => a.age < b.age := by
    obtain ⟨hd, hl, hc⟩ := ha
    cases q
    · exact hd.1
    · exact hl.1
    · exact hc.1
  rw [hq] at hpair ⊢
  obtain ⟨hhead, -⟩ := List.pairwise_cons.mp hpair
  intro x hx
  rcases List.mem_cons.mp hx with rfl | hx
  · exact Nat.le_refl _
  · exact Nat.le_of_lt (hhead x hx)

/-- A queue that blocks the candidate has an older head. -/
theorem head_of_blocks (ha : AgeOrder p) {o : QueueName} (h : p.blocks q r o = true) :
    o ≠ q ∧ ∃ k ks, p.queue o = k :: ks ∧ k.age < r.age := by
  obtain ⟨hoq, x, hx, hage, -⟩ := blocks_iff.mp h
  obtain ⟨k, ks, hk⟩ := List.exists_cons_of_ne_nil (List.ne_nil_of_mem hx)
  exact ⟨hoq, k, ks, hk, Nat.lt_of_le_of_lt (head_oldest ha hk x hx) hage⟩

end

/-- Three queues are all there are. -/
theorem queueName_of_ne {a b c : QueueName} (hab : b ≠ a) (hbc : c ≠ b) (hac : c ≠ a) (o : QueueName) : o = a ∨ o = b ∨ o = c := by
  cases o <;> grind [QueueName]

/-- Settles O37: each substitution is older, and after two the third queue is reached, whose head is older than the other two heads. -/
theorem noOlderOverlappingRequestIsPassed : Obligations.NoOlderOverlappingRequestIsPassed := by
  intro p q ha hne
  refine ⟨?_, fun r rest hq hclear => substitute_of_clear hq hclear 2⟩
  obtain ⟨r, rest, hq⟩ := List.exists_cons_of_ne_nil hne
  by_cases hc : p.Clear q r
  · rw [substitute_of_clear hq hc]
    exact ⟨r, rest, hq, hc⟩
  obtain ⟨o, ho, hsub⟩ := substitute_of_blocked hq hc 1
  obtain ⟨hoq, k, ks, hk, hkr⟩ := head_of_blocks ha ho
  rw [hsub]
  by_cases hck : p.Clear o k
  · rw [substitute_of_clear hk hck]
    exact ⟨k, ks, hk, hck⟩
  obtain ⟨o', ho', hsub'⟩ := substitute_of_blocked hk hck 0
  obtain ⟨hoo, z, zs, hz, hzk⟩ := head_of_blocks ha ho'
  have hqo : o' ≠ q := by
    rintro rfl
    have hzr : z = r := (List.cons.inj (hz.symm.trans hq)).1
    rw [hzr] at hzk
    omega
  rw [hsub']
  refine ⟨z, zs, hz, fun b hb x hx hage => ?_⟩
  have hb' : b ≠ o' := hb
  rcases queueName_of_ne hoq hoo hqo b with rfl | rfl | rfl
  · have := head_oldest ha hq x hx; omega
  · have := head_oldest ha hk x hx; omega
  · exact absurd rfl hb'

/-! ## Sending -/

/-- Every position is reached from the arbiter's own in at most seven steps. -/
theorem position_reached (a pos : Fin 8) : ∃ k, k < 8 ∧ a + Fin.ofNat 8 k = pos := by
  revert a pos; decide

theorem turn_isSome {p : LegPort} : p.turn.isSome = true ↔ p.direct ≠ [] ∨ p.lag ≠ [] ∨ p.copy ≠ [] := by
  have hqueue : (∃ pos, p.queue (turnQueue pos) ≠ []) ↔ p.direct ≠ [] ∨ p.lag ≠ [] ∨ p.copy ≠ [] := by
    constructor
    · rintro ⟨pos, h⟩
      cases hq : turnQueue pos <;> rw [hq] at h
      · exact .inl h
      · exact .inr (.inl h)
      · exact .inr (.inr h)
    · rintro (h | h | h)
      · exact ⟨0, h⟩
      · exact ⟨4, h⟩
      · exact ⟨6, h⟩
  rw [← hqueue, LegPort.turn, List.find?_isSome]
  constructor
  · rintro ⟨pos, -, h⟩
    exact ⟨pos, by simpa using h⟩
  · rintro ⟨pos, h⟩
    obtain ⟨k, hk, rfl⟩ := position_reached p.arbiter pos
    exact ⟨_, List.mem_map.mpr ⟨k, List.mem_range.mpr hk, rfl⟩, by simpa using h⟩

/-- The turn is the first position from the arbiter's own whose queue holds a request (R138). -/
theorem turn_eq_some {p : LegPort} {pos : Fin 8} (h : p.turn = some pos) :
    ∃ k, k < 8 ∧ pos = p.arbiter + Fin.ofNat 8 k ∧ p.queue (turnQueue pos) ≠ [] ∧
      ∀ j < k, p.queue (turnQueue (p.arbiter + Fin.ofNat 8 j)) = [] := by
  rw [LegPort.turn, List.find?_map] at h
  obtain ⟨k, hk, rfl⟩ := Option.map_eq_some_iff.mp h
  obtain ⟨hne, hmem, hbefore⟩ := List.find?_range_eq_some.mp hk
  exact ⟨k, List.mem_range.mp hmem, rfl, by simpa using hne, fun j hj => by simpa using hbefore j hj⟩

theorem sendOne_of_not {s : State} {l : LegIx} (h : (s.leg l).maySend = false ∨ (s.leg l).turn = none) : sendOne l s = s := by
  rcases h with h | h
  · simp only [sendOne, h, Bool.false_eq_true, if_false]
  · simp only [sendOne, h, ite_self]

theorem sendOne_of_turn {s : State} {l : LegIx} {pos : Fin 8} {r : LegRequest} {rest : List LegRequest}
    (hm : (s.leg l).maySend = true) (ht : (s.leg l).turn = some pos)
    (hq : (s.leg l).queue ((s.leg l).substitute 2 (turnQueue pos)) = r :: rest) :
    sendOne l s = (modLeg l (fun p => p.send pos ((s.leg l).substitute 2 (turnQueue pos)) r) s).raise := by
  simp only [sendOne, hm, ht, hq, if_true, List.head?_cons]

/-- Settles O36: `sendOne` when the leg may send and a queue holds a request, and otherwise. -/
theorem legSendsOneRequest : Obligations.LegSendsOneRequest := by
  refine ⟨by decide, fun s l => ?_⟩
  intro p may
  refine ⟨fun h => ?stays, fun h => ?sends⟩
  case stays =>
    refine reacts (c := .legSend l) rfl (sendOne_of_not ?_)
    by_contra hc
    obtain ⟨hmay, hturn⟩ := not_or.mp hc
    obtain ⟨hup, hlen, hnum⟩ := maySend_iff.mp (by simpa using hmay)
    exact h ⟨hup, hlen, hnum, turn_isSome.mp (Option.isSome_iff_ne_none.mpr hturn)⟩
  case sends =>
    obtain ⟨hup, hlen, hnum, hqueue⟩ := h
    have hmay : p.maySend = true := maySend_iff.mpr ⟨hup, hlen, hnum⟩
    obtain ⟨pos, hpos⟩ := Option.isSome_iff_exists.mp (turn_isSome.mpr hqueue)
    obtain ⟨k, hk, rfl, hne, hbefore⟩ := turn_eq_some hpos
    refine ⟨k, hk, hbefore, hne, ?_⟩
    intro q
    obtain ⟨r, rest, hq⟩ := List.exists_cons_of_ne_nil (substitute_ne_nil 2 hne)
    refine ⟨r, rest, hq, ?_⟩
    intro f sent
    refine reacts (c := .legSend l) rfl ((sendOne_of_turn hmay hpos hq).trans ?_)
    have hsent : p.send (p.arbiter + Fin.ofNat 8 k) q r = sent := by
      have hf : p.newFlight r = f := by simp only [LegPort.newFlight, beq_iff_eq, f]
      simp only [LegPort.send, hf, sent]
      rw [show p.queue q = r :: rest from hq, List.tail_cons]
    exact congrArg (fun x => State.raise (s.setLeg l x)) hsent

end Sys2Proof.Machine
end

section
/-! SUPPORT. The answers of tracked writes (R58 to R64): acknowledgements, failures, and entries left owing nothing. -/

namespace Sys2Proof.Machine

open Sys2Proof.Safety

/-! ## Finding an entry after an update -/

theorem findWrite_ref {s : State} {r : Nat} {e : WriteEntry} (h : findWrite s r = some e) : e.ref = r := by
  simpa using List.find?_some h

/-- An update that keeps references keeps what is found, updated. -/
theorem find_map_ref {es : List WriteEntry} {f : WriteEntry → WriteEntry} (hf : ∀ e, (f e).ref = e.ref) (r : Nat) :
    (es.map f).find? (fun e => e.ref == r) = (es.find? fun e => e.ref == r).map f := by
  rw [List.find?_map]
  congr 2
  funext e
  simp [hf]

theorem findWrite_modWrite {s : State} {r : Nat} {e : WriteEntry} {f : WriteEntry → WriteEntry} (hf : ∀ e, (f e).ref = e.ref)
    (h : findWrite s r = some e) : findWrite (modWrite r f s) r = some (f e) := by
  have hstep : ∀ x : WriteEntry, (if x.ref == r then f x else x).ref = x.ref := by
    intro x; split <;> simp [hf]
  rw [findWrite, modWrite, find_map_ref hstep, show s.writes.find? (fun e => e.ref == r) = some e from h, Option.map_some,
    if_pos (by simpa using findWrite_ref h)]

theorem filter_modWrite_ref (es : List WriteEntry) (f : WriteEntry → WriteEntry) (hf : ∀ e, (f e).ref = e.ref) (r : Nat) :
    (es.map fun e => if e.ref == r then f e else e).filter (fun x => x.ref != r) = es.filter fun x => x.ref != r := by
  induction es with
  | nil => rfl
  | cons e es ih =>
    by_cases h : e.ref = r
    · simpa [h, hf] using ih
    · simpa [h] using ih

/-! ## The parts of an answer -/

section
variable {s : State} {r : Nat} {e : WriteEntry}

theorem answerWrite_open (h : findWrite s r = some e) (ha : e.answered = false) (a : Answer) :
    answerWrite r a s = pushAnswer (.write e.tag a) (modWrite r (fun e => { e with answered := true }) s) := by
  simp only [answerWrite, h, ha, Bool.false_eq_true, if_false]

theorem answerWrite_done (h : findWrite s r = some e) (ha : e.answered = true) (a : Answer) : answerWrite r a s = s := by
  simp only [answerWrite, h, ha, if_true]

/-- The entry is gone, the answers `as` are in the queue, and every block is told. -/
def retiredWith (s : State) (r : Nat) (as : List AnswerItem) : State :=
  { s with
    writes := s.writes.filter fun x => x.ref != r
    link := { s.link with answers := s.link.answers ++ as }
    notice := Notice.full }

theorem retireWrite_done (h : findWrite s r = some e) (ho : e.owed = []) (ha : e.answered = true) (hh : e.held = .no) :
    retireWrite r s = retiredWith s r [] := by
  have hgo : (e.owed.isEmpty && e.answered && e.held == .no) = true := by simp [ho, ha, hh]
  simp only [retireWrite, h, hgo, if_true, State.raise, retiredWith, List.append_nil]

theorem retireWrite_owed (h : findWrite s r = some e) (ho : e.owed ≠ []) : retireWrite r s = s := by
  have hstay : (e.owed.isEmpty && e.answered && e.held == .no) = false := by simp [ho]
  simp only [retireWrite, h, hstay, Bool.false_eq_true, if_false]

theorem retireWrite_gone (h : findWrite s r = none) : retireWrite r s = s := by
  simp only [retireWrite, h]

/-- An unanswered entry that owes nothing is answered and retires in one. -/
theorem retireWrite_answerWrite (h : findWrite s r = some e) (ho : e.owed = []) (hh : e.held = .no) (a : Answer) :
    retireWrite r (answerWrite r a s) = retiredWith s r (if e.answered then [] else [.write e.tag a]) := by
  by_cases ha : e.answered = true
  · rw [answerWrite_done h ha, retireWrite_done h ho ha hh, if_pos ha]
  · have hf : findWrite (pushAnswer (.write e.tag a) (modWrite r (fun e => { e with answered := true }) s)) r =
        some { e with answered := true } := findWrite_modWrite (by intro e; rfl) h
    rw [answerWrite_open h (by simpa using ha), retireWrite_done hf ho rfl hh, if_neg ha]
    simp only [retiredWith, pushAnswer, modWrite]
    rw [filter_modWrite_ref _ (fun e => { e with answered := true }) (by intro e; rfl), List.append_nil]

/-! ## The decision of R59 -/

theorem decideEmptied_none (h : findWrite s r = none) : decideEmptied r s = s := by
  simp only [decideEmptied, h]

theorem decideEmptied_stays (h : findWrite s r = some e) (hs : e.owed ≠ [] ∨ e.held ≠ .no) : decideEmptied r s = s := by
  have hstay : (e.owed.isEmpty && e.held == .no) = false := by
    rcases hs with hs | hs <;> simp [hs]
  simp only [decideEmptied, h, hstay, Bool.false_eq_true, if_false]

/-- The answer that R59 gives an entry left owing nothing. -/
def emptiedAnswer (s : State) (e : WriteEntry) : Answer :=
  if e.policy = some .lagged then .fault else if ackedByCurrent s e then .okay else .fault

theorem decideEmptied_emptied (h : findWrite s r = some e) (ho : e.owed = []) (hh : e.held = .no) :
    decideEmptied r s = retiredWith s r (if e.answered then [] else [.write e.tag (emptiedAnswer s e)]) := by
  have hgo : (e.owed.isEmpty && e.held == .no) = true := by simp [ho, hh]
  have hdecide : decideEmptied r s = retireWrite r (answerWrite r (emptiedAnswer s e) s) := by
    simp only [decideEmptied, h, hgo, if_true, emptiedAnswer]
    rcases hp : e.policy with _ | p
    · simp
    · cases p <;> simp
  rw [hdecide, retireWrite_answerWrite h ho hh]

theorem findWrite_retiredWith (s : State) (r : Nat) (as : List AnswerItem) : findWrite (retiredWith s r as) r = none := by
  simp [findWrite, retiredWith]

/-! ## An acknowledgement -/

/-- The leg moves from the owed to the acked set. -/
def ackedBy (l : LegIx) (e : WriteEntry) : WriteEntry := { e with owed := legErase l e.owed, acked := legInsert l e.acked }

theorem ackWrite_stray (h : findWrite s r = none ∨ ∃ e, findWrite s r = some e ∧ l ∉ e.owed) : ackWrite r l s = count l .stray s := by
  rcases h with h | ⟨e, h, hl⟩
  · simp only [ackWrite, h]
  · have hno : e.owed.contains l = false := by simpa using hl
    simp only [ackWrite, h, hno, Bool.false_eq_true, if_false]

/-- The state once the leg has moved and, for a LAGGED write, the first acknowledgement of a CURRENT slot is answered. -/
def ackTaken (r : Nat) (l : LegIx) (e : WriteEntry) (s : State) : State :=
  let s1 := (modWrite r (ackedBy l) s).raiseWork
  match e.policy, e.window with
  | some .lagged, some w => if isCurrent s w l then answerWrite r .okay s1 else s1
  | _, _ => s1

theorem ackTaken_quiet (h : findWrite s r = some e)
    (hq : e.policy ≠ some .lagged ∨ ∀ w, e.window = some w → e.answered = true ∨ isCurrent s w l = false) :
    ackTaken r l e s = (modWrite r (ackedBy l) s).raiseWork := by
  have hfound : findWrite (modWrite r (ackedBy l) s).raiseWork r = some (ackedBy l e) := findWrite_modWrite (by intro e; rfl) h
  unfold ackTaken
  split
  next p w hpol hwin =>
    rcases hq with hq | hq
    · exact absurd hpol hq
    · rcases hq w hwin with ha | hc
      · simp only [answerWrite_done hfound ha, ite_self]
      · exact if_neg (by simp [hc])
  next => rfl

theorem ackTaken_answers {w : WinIx} (h : findWrite s r = some e) (hp : e.policy = some .lagged) (hw : e.window = some w)
    (ha : e.answered = false) (hc : isCurrent s w l = true) :
    ackTaken r l e s = pushAnswer (.write e.tag .okay)
      (modWrite r (fun e => { e with answered := true }) (modWrite r (ackedBy l) s).raiseWork) := by
  have hfound : findWrite (modWrite r (ackedBy l) s).raiseWork r = some (ackedBy l e) := findWrite_modWrite (by intro e; rfl) h
  simp only [ackTaken, hp, hw, hc, if_true]
  exact answerWrite_open hfound ha _

theorem ackWrite_owed (h : findWrite s r = some e) (hl : l ∈ e.owed) :
    ackWrite r l s = retireWrite r (decideEmptied r (ackTaken r l e s)) := by
  have hyes : e.owed.contains l = true := by simpa using hl
  simp only [ackWrite, h, hyes, if_true]
  rfl

/-- An entry that still owes a leg is left as the acknowledgement leaves it. -/
theorem retireWrite_decideEmptied_stays (h : findWrite s r = some e) (ho : e.owed ≠ []) :
    retireWrite r (decideEmptied r s) = s := by
  rw [decideEmptied_stays h (.inl ho), retireWrite_owed h ho]

/-- An entry left owing nothing retires, with its answer if it had none. -/
theorem retireWrite_decideEmptied_retires (h : findWrite s r = some e) (ho : e.owed = []) (hh : e.held = .no) :
    retireWrite r (decideEmptied r s) = retiredWith s r (if e.answered then [] else [.write e.tag (emptiedAnswer s e)]) := by
  rw [decideEmptied_emptied h ho hh, retireWrite_gone (findWrite_retiredWith _ _ _)]

/-- What an update did to the entry is gone with it. -/
theorem retiredWith_modWrite (s : State) (r : Nat) {f : WriteEntry → WriteEntry} (hf : ∀ e, (f e).ref = e.ref) (as : List AnswerItem) :
    retiredWith (modWrite r f s).raiseWork r as = retiredWith s r as := by
  simp only [retiredWith, modWrite, State.raiseWork, filter_modWrite_ref _ f hf]

theorem legErase_singleton (l : LegIx) : legErase l [l] = [] := by simp [legErase]

theorem legErase_ne_nil {ls : List LegIx} (h : ∃ k ∈ ls, k ≠ l) : legErase l ls ≠ [] := by
  obtain ⟨k, hk, hne⟩ := h
  exact List.ne_nil_of_mem (List.mem_filter.mpr ⟨hk, by simpa using hne⟩)

end

/-! ## The obligation -/

/-- The acknowledgements of a window's write. -/
theorem ackWrite_window {s : State} {r : Nat} {l : LegIx} {e : WriteEntry} {w : WinIx} (h : findWrite s r = some e)
    (hw : e.window = some w) :
    let moved (answered : Bool) := s.writes.map fun x =>
      if x.ref == r then { x with owed := legErase l x.owed, acked := legInsert l x.acked, answered := x.answered || answered } else x
    let working := { s.notice with work := true }
    let answer (a : Answer) := { s.link with answers := s.link.answers ++ [.write e.tag a] }
    (e.owed = [l] → e.held = .no → (e.policy ≠ some .lagged ∨ e.answered = true ∨ isCurrent s w l = false) →
      ackWrite r l s = retiredWith s r (if e.answered then [] else [.write e.tag (if e.policy = some .lagged then .fault
        else if (legInsert l e.acked).any (fun k => isCurrent s w k) then .okay else .fault)])) ∧
    (e.owed = [l] → e.held = .no → e.policy = some .lagged → e.answered = false → isCurrent s w l = true →
      ackWrite r l s = retiredWith s r [.write e.tag .okay]) ∧
    (l ∈ e.owed → (∃ k ∈ e.owed, k ≠ l) → (e.policy ≠ some .lagged ∨ e.answered = true ∨ isCurrent s w l = false) →
      ackWrite r l s = { s with writes := moved false, notice := working }) ∧
    (l ∈ e.owed → (∃ k ∈ e.owed, k ≠ l) → e.policy = some .lagged → e.answered = false → isCurrent s w l = true →
      ackWrite r l s = { s with writes := moved true, link := answer .okay, notice := working }) := by
  intro moved working answer
  have hfound : findWrite (modWrite r (ackedBy l) s).raiseWork r = some (ackedBy l e) := findWrite_modWrite (by intro e; rfl) h
  have hfound' : findWrite (pushAnswer (.write e.tag .okay)
      (modWrite r (fun e => { e with answered := true }) (modWrite r (ackedBy l) s).raiseWork)) r =
      some { ackedBy l e with answered := true } :=
    findWrite_modWrite (f := fun e => { e with answered := true }) (by intro e; rfl) hfound
  have quiet (hq : e.policy ≠ some .lagged ∨ e.answered = true ∨ isCurrent s w l = false) :
      ackTaken r l e s = (modWrite r (ackedBy l) s).raiseWork := by
    refine ackTaken_quiet h (hq.imp_right fun hq v hv => ?_)
    cases hw.symm.trans hv
    exact hq
  refine ⟨fun ho hh hq => ?_, fun ho hh hp ha hc => ?_, fun hl hk hq => ?_, fun hl hk hp ha hc => ?_⟩
  · have hl : l ∈ e.owed := by simp [ho]
    rw [ackWrite_owed h hl, quiet hq, retireWrite_decideEmptied_retires hfound (by simp [ackedBy, ho, legErase_singleton]) hh,
      retiredWith_modWrite s r (by intro e; rfl)]
    simp only [emptiedAnswer, ackedByCurrent, ackedBy, hw]
    rfl
  · have hl : l ∈ e.owed := by simp [ho]
    rw [ackWrite_owed h hl, ackTaken_answers h hp hw ha hc,
      retireWrite_decideEmptied_retires hfound' (by simp [ackedBy, ho, legErase_singleton]) hh]
    simp only [if_true, retiredWith, pushAnswer, modWrite, State.raiseWork, List.append_nil]
    rw [filter_modWrite_ref _ _ (by intro e; rfl), filter_modWrite_ref _ _ (by intro e; rfl)]
  · rw [ackWrite_owed h hl, quiet hq, retireWrite_decideEmptied_stays hfound (legErase_ne_nil hk)]
    simp only [moved, modWrite, ackedBy, State.raiseWork, Bool.or_false]
    rfl
  · rw [ackWrite_owed h hl, ackTaken_answers h hp hw ha hc, retireWrite_decideEmptied_stays hfound' (legErase_ne_nil hk)]
    have hmap : (s.writes.map fun x => if x.ref == r then ackedBy l x else x).map
        (fun x => if x.ref == r then { x with answered := true } else x) = moved true := by
      rw [List.map_map]
      refine List.map_congr_left fun x _ => ?_
      by_cases hx : x.ref = r <;> simp [hx, ackedBy]
    simp only [pushAnswer, modWrite, State.raiseWork, hmap]
    rfl

/-- Settles O39: `ackWrite_window` for a window's write, `decideEmptied_emptied` for the rest. -/
theorem acknowledgementsAnswerTheWrite : Obligations.AcknowledgementsAnswerTheWrite := by
  refine ⟨fun s r l h => ackWrite_stray (.inl h), fun s r l e h hl => ackWrite_stray (.inr ⟨e, h, hl⟩), fun s r l e w h hw => ?window,
    fun s r l e h hw hp ho hk ha hh => ?pass, fun s r l rs => ⟨rfl, rfl⟩, fun s r h => decideEmptied_none h, fun s r e h => ?decide⟩
  case window =>
    intro moved working answer rest
    obtain ⟨hlast, hanswers, hmore, hmoreAnswers⟩ := ackWrite_window (l := l) h hw
    refine ⟨fun hp ho ha hh => ?_, fun hp hl hk => hmore hl hk (.inl (by simp [hp])), fun hp hl hk => ⟨fun ha hc => ?_, fun hq => ?_⟩,
      fun hp ho hh => ⟨fun ha => ?_, fun ha hc => ?_, fun ha hc => ?_⟩, ?_⟩
    · rw [hlast ho hh (.inl (by simp [hp]))]
      simp [ha, hp, retiredWith, rest, answer]
    · exact hmoreAnswers hl hk hp ha hc
    · exact hmore hl hk (.inr hq)
    · rw [hlast ho hh (.inr (.inl ha))]
      simp [ha, retiredWith, rest]
    · exact hanswers ho hh hp ha hc
    · rw [hlast ho hh (.inr (.inr hc))]
      simp [ha, hp, retiredWith, rest, answer]
    · simp [failWrite, h, hw]
  case pass =>
    intro retired
    have hl : l ∈ e.owed := by simp [ho]
    have hfound : findWrite (modWrite r (ackedBy l) s).raiseWork r = some (ackedBy l e) := findWrite_modWrite (by intro e; rfl) h
    have hcleared : findWrite (clearOwed r l s) r = some { e with owed := legErase l e.owed } :=
      findWrite_modWrite (f := fun e => { e with owed := legErase l e.owed }) (by intro e; rfl) h
    constructor
    · rw [ackWrite_owed h hl, ackTaken_quiet h (.inl (by simp [hp])),
        retireWrite_decideEmptied_retires hfound (by simp [ackedBy, ho, legErase_singleton]) hh, retiredWith_modWrite s r (by intro e; rfl)]
      simp [ackedBy, ha, emptiedAnswer, hp, ackedByCurrent, hw, hk, legInsert, retiredWith, retired]
    · have hfail : failWrite r l s = decideEmptied r (clearOwed r l s) := by simp [failWrite, h, hw, hl]
      rw [hfail, decideEmptied_emptied hcleared (by simp [ho, legErase_singleton]) hh, clearOwed, retiredWith_modWrite s r (by intro e; rfl)]
      simp [ha, emptiedAnswer, hp, ackedByCurrent, hw, hk, retiredWith, retired]
  case decide =>
    intro retired
    have hretired (as : List AnswerItem) : retired as = retiredWith s r as := rfl
    refine ⟨fun hs => decideEmptied_stays h hs, fun ho hh ha => ?_, fun ho hh ha => ?_⟩
    · rw [decideEmptied_emptied h ho hh, if_pos ha, hretired]
    · rw [decideEmptied_emptied h ho hh, if_neg (by simp [ha])]
      simp only [hretired]
      refine ⟨fun hp => ?_, fun w hp hw => ⟨fun hc => ?_, fun hc => ?_⟩, fun hp hw => ⟨fun hk => ?_, fun hk => ?_⟩⟩
      · rw [emptiedAnswer, if_pos hp]
      · rw [emptiedAnswer, if_neg (by simp [hp]), if_pos (by simpa [ackedByCurrent, hw] using hc)]
      · rw [emptiedAnswer, if_neg (by simp [hp]), if_neg (by simpa [ackedByCurrent, hw] using hc)]
      · rw [emptiedAnswer, if_neg (by simp [hp]), if_pos (by simpa [ackedByCurrent, hw] using hk)]
      · rw [emptiedAnswer, if_neg (by simp [hp]), if_neg (by simpa [ackedByCurrent, hw] using hk)]

end Sys2Proof.Machine
end

section
/-! SUPPORT. Responses and timers of in-flight entries (R141 to R145): what each condition of an entry makes of them. -/

namespace Sys2Proof.Machine

open Sys2Proof.Safety

/-! ## Entries of the in-flight table -/

theorem flight_number {p : LegPort} {n : SeqNo} {f : Flight} (h : p.flight n = some f) : f.number = n := by
  simpa using List.find?_some h

theorem chunkIn_iff {s : State} {j : BitVec 8} {c : Nat} {ph : ChunkPhase} : inProcess s j c ph = true ↔ ChunkIn s j c ph := by
  unfold inProcess ChunkIn
  cases runningJob s <;> simp

theorem faultLeg_up {s : State} {l : LegIx} (h : (s.leg l).state = .up) (c : LegCause) : faultLeg l c s = leaveUp l .faulted c s :=
  if_pos (isUp_iff.mpr h)

theorem faultLeg_notUp {s : State} {l : LegIx} (h : (s.leg l).state ≠ .up) (c : LegCause) : faultLeg l c s = s :=
  if_neg (mt isUp_iff.mp h)

/-! ## A failed write (R122, R141, R143) -/

section
variable {s : State} {l : LegIx} {cause : LegCause}

theorem writeFailed_write (r : Nat) (w : Option WinIx) :
    writeFailed l cause (some (.write r w)) s = faultLeg l cause (failWrite r l s) := rfl

theorem writeFailed_none : writeFailed l cause none s = faultLeg l cause s := rfl

theorem writeFailed_chunk_gone {j : BitVec 8} {c : Nat} (h : ¬ ChunkIn s j c .writing) :
    writeFailed l cause (some (.chunk j c)) s = faultLeg l cause s :=
  if_neg (mt chunkIn_iff.mp h)

/-- The report of a chunk write of the pass is taken before the leg's departure or after it, by the free choice (log entry 6). -/
theorem writeFailed_chunk {j : BitVec 8} {c : Nat} {k : Job} (hk : runningJob s = some k) (h : ChunkIn s j c .writing) :
    writeFailed l cause (some (.chunk j c)) s = faultLeg l cause (if Config.reportFirst s.choices
      then demote k.window k.target .rebuildAborted .targetError { s with choices := s.choices + 1 }
      else { s with choices := s.choices + 1 }) := by
  have hin : inProcess s j c .writing = true := chunkIn_iff.mpr h
  have hin' : inProcess (useChoice s) j c .writing = true := hin
  have hk' : runningJob (useChoice s) = some k := hk
  have hfail : failChunkWrite j c (useChoice s) = demote k.window k.target .rebuildAborted .targetError (useChoice s) := by
    simp only [failChunkWrite, hin', hk', if_true]
  simp only [writeFailed, hin, if_true, hfail]
  split <;> rfl

end

/-! ## Write responses -/

section
variable {s : State} {l : LegIx} {n : SeqNo} {f : Flight}

theorem takeWriteResponse_notUp (h : (s.leg l).state ≠ .up) (ok : Bool) : takeWriteResponse l n ok s = s :=
  if_neg (mt isUp_iff.mp h)

theorem takeWriteResponse_none (h : (s.leg l).state = .up) (hf : (s.leg l).flight n = none) (ok : Bool) :
    takeWriteResponse l n ok s = count l .stray s := by
  simp only [takeWriteResponse, isUp_iff.mpr h, if_true, hf]

theorem takeWriteResponse_write (h : (s.leg l).state = .up) (hf : (s.leg l).flight n = some f) (hk : f.kind = .write) (ok : Bool) :
    takeWriteResponse l n ok s = writeEntryResponse l f ok s := by
  simp only [takeWriteResponse, isUp_iff.mpr h, if_true, hf, hk, beq_self_eq_true]

theorem takeWriteResponse_read (h : (s.leg l).state = .up) (hf : (s.leg l).flight n = some f) (hk : f.kind = .read) (ok : Bool) :
    takeWriteResponse l n ok s = readEntryBeat l f .error s := by
  simp only [takeWriteResponse, isUp_iff.mpr h, if_true, hf, hk]
  rfl

theorem takeReadBeat_notUp (h : (s.leg l).state ≠ .up) (first : Bool) (b : BeatAnswer) : takeReadBeat l n first b s = s :=
  if_neg (mt isUp_iff.mp h)

theorem takeReadBeat_read (h : (s.leg l).state = .up) (hf : (s.leg l).flight n = some f) (hk : f.kind = .read) (first : Bool)
    (b : BeatAnswer) : takeReadBeat l n first b s = readEntryBeat l f b s := by
  simp only [takeReadBeat, isUp_iff.mpr h, if_true, hf, hk, beq_self_eq_true]

theorem takeReadBeat_write (h : (s.leg l).state = .up) (hf : (s.leg l).flight n = some f) (hk : f.kind = .write) (first : Bool)
    (b : BeatAnswer) : takeReadBeat l n first b s = writeEntryResponse l f false s := by
  simp only [takeReadBeat, isUp_iff.mpr h, if_true, hf, hk]
  rfl

/-- A response that reaches an entry of the other kind is an error of that entry (log entry 14). -/
theorem takeWriteResponse_eq_errorBeat (hf : (s.leg l).flight n = some f) (hk : f.kind = .read) (ok first : Bool) :
    takeWriteResponse l n ok s = takeReadBeat l n first .error s := by
  by_cases h : (s.leg l).state = .up
  · rw [takeWriteResponse_read h hf hk, takeReadBeat_read h hf hk]
  · rw [takeWriteResponse_notUp h, takeReadBeat_notUp h]

theorem takeReadBeat_eq_errorResponse (hf : (s.leg l).flight n = some f) (hk : f.kind = .write) (first : Bool) (b : BeatAnswer) :
    takeReadBeat l n first b s = takeWriteResponse l n false s := by
  by_cases h : (s.leg l).state = .up
  · rw [takeWriteResponse_write h hf hk, takeReadBeat_write h hf hk]
  · rw [takeWriteResponse_notUp h, takeReadBeat_notUp h]

/-- A response counted once, and its entry freed: the count is the leg's, the table has lost the entry, nothing else changes. -/
theorem freeEntry_countOnce (hc : f.counted = false) (k : Counter) :
    let t := freeEntry l f.number (countOnce l k f s)
    t.counters l = (s.counters l).bump k ∧ (t.leg l).inflight = ((freeEntry l f.number s).leg l).inflight ∧
      t.writes = s.writes ∧ t.jobs = s.jobs ∧ t.link = s.link := by
  have hcount : countOnce l k f s =
      count l k (modLeg l (fun p => p.modFlight f.number fun x => { x with counted := true }) s) := if_neg (by simp [hc])
  rw [hcount]
  refine ⟨?_, ?_, rfl, rfl, rfl⟩
  · exact setCounters_counters_self _ l _
  · have hleg : (modLeg l (fun p => p.modFlight f.number fun x => { x with counted := true }) s).leg l =
        (s.leg l).modFlight f.number fun x => { x with counted := true } := modLeg_leg_self s l _
    simp only [freeEntry, modLeg_leg_self, count_leg, LegPort.freeFlight, LegPort.modFlight]
    induction (s.leg l).inflight with
    | nil => rfl
    | cons x xs ih => by_cases hx : x.number = f.number <;> simpa [hx] using ih

end

/-- Settles O38: the tables of `takeWriteResponse` and `writeEntryResponse`, condition by condition. -/
theorem writeResponsesByCondition : Obligations.WriteResponsesByCondition := by
  refine ⟨fun s l n ok h => reacts (c := .writeResponse l n ok) rfl (takeWriteResponse_notUp h ok),
    fun s l n ok h hf => reacts (c := .writeResponse l n ok) rfl (takeWriteResponse_none h hf ok),
    fun s l n => by simp only [freeEntry, modLeg_leg_self, LegPort.freeFlight],
    fun s l c => ⟨fun h => faultLeg_up h c, fun h => faultLeg_notUp h c⟩,
    fun s l n f hf hk ok first => ?read, fun s l n f h hf hk => ?write⟩
  case read =>
    exact congrArg (fun u => Host.Outcome.next (react u)) (takeWriteResponse_eq_errorBeat hf hk ok first)
  case write =>
    intro F
    obtain rfl : f.number = n := flight_number hf
    have response {ok : Bool} {t : State} (e : writeEntryResponse l f ok s = t) :
        exec (.writeResponse l f.number ok) s = .next (react t) :=
      reacts (c := .writeResponse l f.number ok) rfl ((takeWriteResponse_write h hf hk ok).trans e)
    refine ⟨fun hc r w ho => ⟨response ?_, response ?_⟩, fun hc j c ho => ⟨response ?_, fun hn => response ?_, fun k hk hin => ?_⟩,
      fun hc hcount => ⟨response ?_, _, response ?_, freeEntry_countOnce hcount .stray⟩,
      fun hc hcount ok => ⟨_, response ?_, freeEntry_countOnce hcount .late⟩, fun hc ok => response ?_⟩
    · simp only [writeEntryResponse, hc, ho]; rfl
    · simp only [writeEntryResponse, hc, ho, writeFailed_write]; rfl
    · simp only [writeEntryResponse, hc, ho]; rfl
    · simp only [writeEntryResponse, hc, ho]
      exact writeFailed_chunk_gone (s := count l .writeFailures F) hn
    · intro C
      refine response ?_
      simp only [writeEntryResponse, hc, ho]
      exact writeFailed_chunk (s := count l .writeFailures F) hk hin
    · simp only [writeEntryResponse, hc]; rfl
    · simp only [writeEntryResponse, hc]
    · simp only [writeEntryResponse, hc]
    · simp only [writeEntryResponse, hc]; rfl

end Sys2Proof.Machine
end

section
/-! SUPPORT. Beats of read responses (R78, R142, R144) and entry timers (R143). -/

namespace Sys2Proof.Machine

open Sys2Proof.Safety

/-! ## Beats noted -/

section
variable {s : State} {l : LegIx} {f : Flight} {k : Nat}

theorem lastBeat_eq (hb : f.beatsExpected = some k) : f.lastBeat = decide (k ≤ f.beatsTaken + 1) := by
  simp only [Flight.lastBeat, hb, Option.all_some]

theorem lastBeat_true (hb : f.beatsExpected = some k) (h : k ≤ f.beatsTaken + 1) : f.lastBeat = true := by
  rw [lastBeat_eq hb, decide_eq_true h]

theorem lastBeat_false (hb : f.beatsExpected = some k) (h : f.beatsTaken + 1 < k) : f.lastBeat = false := by
  rw [lastBeat_eq hb, decide_eq_false (Nat.not_le.mpr h)]

theorem noteBeat_last (h : f.lastBeat = true) : noteBeat l f s = freeEntry l f.number s := if_pos h

theorem noteBeat_more (h : f.lastBeat = false) :
    noteBeat l f s = modLeg l (fun p => p.modFlight f.number fun x => { x with beatsTaken := x.beatsTaken + 1 }) s :=
  if_neg (by simp [h])

theorem noteErrorBeat_last (h : f.lastBeat = true) : noteErrorBeat l f s = freeEntry l f.number s := if_pos h

theorem noteErrorBeat_more (h : f.lastBeat = false) :
    noteErrorBeat l f s = modLeg l (fun p => p.modFlight f.number fun x =>
      { x with beatsTaken := x.beatsTaken + 1, condition := .closing, owner := none, counted := true }) s :=
  if_neg (by simp [h])

theorem readSucceeded_last (h : f.lastBeat = true) : readSucceeded l f s = modLeg l (fun p => { p with failures := 0 }) s := if_pos h

theorem readSucceeded_more (h : f.lastBeat = false) : readSucceeded l f s = s := if_neg (by simp [h])

end

/-! ## Beats without an entry -/

theorem takeReadBeat_none {s : State} {l : LegIx} {n : SeqNo} (h : (s.leg l).state = .up) (hf : (s.leg l).flight n = none)
    (first : Bool) (b : BeatAnswer) :
    takeReadBeat l n first b s = if first || !(s.leg l).spent.contains n
      then count l .stray (modLeg l (fun p => { p with spent := p.spent.filter (· != n) ++ [n] }) s) else s := by
  simp only [takeReadBeat, isUp_iff.mpr h, if_true, hf]

/-! ## Delivered beats -/

/-- The bytes of a delivered beat: the read's own, and zeros (R151). -/
theorem maskBeat_eq (a n k : Nat) (d : List Byte) :
    maskBeat a n k d = (List.range 16).map fun i =>
      if a ≤ a / 16 * 16 + 16 * k + i ∧ a / 16 * 16 + 16 * k + i < a + n then d.getD i 0 else 0 := by
  simp only [maskBeat, Bool.and_eq_true, decide_eq_true_eq]

section
variable {s : State} {r : Nat} {e : ReadEntry}

theorem deliverBeat_last (h : findRead s r = some e) (hb : e.delivered + 1 = e.beatsTotal) (d : List Byte) :
    deliverBeat r d s = retireRead r (pushAnswer (.beat e.tag e.delivered .okay (maskBeat e.addr e.length e.delivered d))
      (modRead r (fun e => { e with delivered := e.delivered + 1 }) s)) := by
  simp only [deliverBeat, h, hb, beq_self_eq_true, if_true]

theorem deliverBeat_more (h : findRead s r = some e) (hb : e.delivered + 1 ≠ e.beatsTotal) (d : List Byte) :
    deliverBeat r d s = pushAnswer (.beat e.tag e.delivered .okay (maskBeat e.addr e.length e.delivered d))
      (modRead r (fun e => { e with delivered := e.delivered + 1 }) s) := by
  have hno : (e.delivered + 1 == e.beatsTotal) = false := by simpa using hb
  simp only [deliverBeat, h, hno, Bool.false_eq_true, if_false]

end

theorem filter_modRead_ref (es : List ReadEntry) (f : ReadEntry → ReadEntry) (hf : ∀ e, (f e).ref = e.ref) (r : Nat) :
    (es.map fun e => if e.ref == r then f e else e).filter (fun x => x.ref != r) = es.filter fun x => x.ref != r := by
  induction es with
  | nil => rfl
  | cons e es ih =>
    by_cases h : e.ref = r
    · simpa [h, hf] using ih
    · simpa [h] using ih

/-! ## The obligations -/

/-- Settles O40: the table of `readEntryBeat`, condition by condition, for a last beat and for one before it. -/
theorem readBeatsByCondition : Obligations.ReadBeatsByCondition := by
  have beat {s t : State} {l : LegIx} {n : SeqNo} {first : Bool} {b : BeatAnswer} (e : takeReadBeat l n first b s = t) :
      exec (.readBeat l n first b) s = .next (react t) := reacts (c := .readBeat l n first b) rfl e
  refine ⟨fun s l n first b h => beat (takeReadBeat_notUp h first b), fun s l n first b h hf => ⟨fun hs => ?counted, fun h1 h2 => ?spent⟩,
    fun s l n f hf hk first b => ?write, fun s l n first f k h hf hk hb => ?entry, fun s l j c => ?failures, fun s r e d h => ?delivered⟩
  case counted =>
    have hcond : (first || !(s.leg l).spent.contains n) = true := by simpa using hs
    refine ⟨_, beat ((takeReadBeat_none h hf first b).trans (if_pos hcond)), setCounters_counters_self _ l _, rfl, rfl, rfl, ?_⟩
    rw [count_leg, modLeg_leg_self]
    exact List.mem_append_right _ (List.mem_singleton.mpr rfl)
  case spent => exact beat ((takeReadBeat_none h hf first b).trans (if_neg (by simp [h1, h2])))
  case write => exact congrArg (fun u => Host.Outcome.next (react u)) (takeReadBeat_eq_errorResponse hf hk first b)
  case entry =>
    intro change more noted failed once
    obtain rfl : f.number = n := flight_number hf
    have entry {b : BeatAnswer} {t : State} (e : readEntryBeat l f b s = t) :
        exec (.readBeat l f.number first b) s = .next (react t) := beat ((takeReadBeat_read h hf hk first b).trans e)
    have last (hk' : k ≤ f.beatsTaken + 1) : f.lastBeat = true := lastBeat_true hb hk'
    have notLast (hk' : f.beatsTaken + 1 < k) : f.lastBeat = false := lastBeat_false hb hk'
    refine ⟨fun hc r ho d => ⟨fun hk' => entry ?_, fun hk' => entry ?_, fun hk' => entry ?_, fun hk' => entry ?_⟩,
      fun hc j c ho d => ⟨fun hk' => entry ?_, fun hk' => entry ?_, fun hk' => entry ?_, fun hk' => entry ?_⟩,
      fun hc => ⟨fun d hk' => entry ?_, fun d hk' => entry ?_, fun hk' => entry ?_, fun hk' => entry ?_⟩,
      fun hc b => ⟨fun hk' => entry ?_, fun hk' => entry ?_⟩, fun hc b => ⟨fun hk' => entry ?_, fun hk' => entry ?_⟩⟩
    · simp only [readEntryBeat, hc, ho, noteBeat_more (notLast hk'), readSucceeded_more (notLast hk')]; rfl
    · simp only [readEntryBeat, hc, ho, noteBeat_last (last hk'), readSucceeded_last (last hk')]; rfl
    · simp only [readEntryBeat, hc, ho, noteErrorBeat_more (notLast hk')]; rfl
    · simp only [readEntryBeat, hc, ho, noteErrorBeat_last (last hk')]; rfl
    · simp only [readEntryBeat, hc, ho, noteBeat_more (notLast hk'), readSucceeded_more (notLast hk'), notLast hk']; rfl
    · simp only [readEntryBeat, hc, ho, noteBeat_last (last hk'), readSucceeded_last (last hk'), last hk']; rfl
    · simp only [readEntryBeat, hc, ho, noteErrorBeat_more (notLast hk')]; rfl
    · simp only [readEntryBeat, hc, ho, noteErrorBeat_last (last hk')]; rfl
    · simp only [readEntryBeat, hc, noteBeat_more (notLast hk')]; rfl
    · simp only [readEntryBeat, hc, noteBeat_last (last hk')]; rfl
    · simp only [readEntryBeat, hc, noteErrorBeat_more (notLast hk')]; rfl
    · simp only [readEntryBeat, hc, noteErrorBeat_last (last hk')]; rfl
    · simp only [readEntryBeat, hc, noteBeat_more (notLast hk')]; rfl
    · simp only [readEntryBeat, hc, noteBeat_last (last hk')]; rfl
    · simp only [readEntryBeat, hc, noteBeat_more (notLast hk')]; rfl
    · simp only [readEntryBeat, hc, noteBeat_last (last hk')]
  case failures =>
    refine ⟨fun h => if_pos (chunkIn_iff.mpr h), fun h => if_neg (mt chunkIn_iff.mp h), fun h => if_neg (Nat.not_le.mpr h),
      fun h => if_pos h, rfl⟩
  case delivered =>
    by_cases hb : e.delivered + 1 = e.beatsTotal
    · rw [deliverBeat_last h hb, maskBeat_eq]
      exact ⟨rfl, fun _ => filter_modRead_ref _ (fun e => { e with delivered := e.delivered + 1 }) (by intro e; rfl) r, fun hn => absurd hb hn⟩
    · rw [deliverBeat_more h hb, maskBeat_eq]
      exact ⟨rfl, fun he => absurd he hb, fun _ => rfl⟩

/-- The timer of an awaited or orphaned entry of a leg that is UP. -/
theorem expire_timedOut {s : State} {l : LegIx} {n : SeqNo} {f : Flight} (hf : (s.leg l).flight n = some f)
    (hc : f.condition = .live ∨ f.condition = .orphaned) (hu : (s.leg l).state = .up) : expire l n s = timedOut l f s := by
  rcases hc with hc | hc <;> simp only [expire, hf, hc, isUp_iff.mpr hu, if_true]

theorem timedOut_write {s : State} {l : LegIx} {f : Flight} (hk : f.kind = .write) :
    timedOut l f s = writeFailed l .writeTimeout (if f.condition = .live then f.owner else none)
      (expireEntry l f.number (count l .timeouts s)) := by
  simp only [timedOut, hk, beq_iff_eq]

theorem timedOut_read {s : State} {l : LegIx} {f : Flight} (hk : f.kind = .read) :
    timedOut l f s = checkFailures l (ownerReadFailed l (if f.condition = .live then f.owner else none)
      (bumpFailures l (expireEntry l f.number (count l .timeouts s)))) := by
  simp only [timedOut, hk, beq_iff_eq]

/-- Settles O41: the table of `expire` and `timedOut`. -/
theorem entryTimersByCondition : Obligations.EntryTimersByCondition := by
  have timer {s t : State} {l : LegIx} {n : SeqNo} (e : expire l n s = t) : exec (.entryTimerExpiry l n) s = .next (react t) :=
    reacts (c := .entryTimerExpiry l n) rfl e
  refine ⟨fun s l n h => timer (by simp only [expire, h]), fun s l n f hf => ?_⟩
  intro X
  obtain rfl : f.number = n := flight_number hf
  have write {t : State} (hc : f.condition = .live ∨ f.condition = .orphaned) (hu : (s.leg l).state = .up) (hk : f.kind = .write)
      (e : writeFailed l .writeTimeout (if f.condition = .live then f.owner else none) (X (count l .timeouts s)) = t) :
      exec (.entryTimerExpiry l f.number) s = .next (react t) :=
    timer ((expire_timedOut hf hc hu).trans ((timedOut_write hk).trans e))
  have read {t : State} (hc : f.condition = .live ∨ f.condition = .orphaned) (hu : (s.leg l).state = .up) (hk : f.kind = .read)
      (e : checkFailures l (ownerReadFailed l (if f.condition = .live then f.owner else none)
        (bumpFailures l (X (count l .timeouts s)))) = t) : exec (.entryTimerExpiry l f.number) s = .next (react t) :=
    timer ((expire_timedOut hf hc hu).trans ((timedOut_read hk).trans e))
  have orphaned (h : f.condition = .orphaned) : (if f.condition = .live then f.owner else none) = none := if_neg (by simp [h])
  refine ⟨fun hc => timer ?_, fun hc hu => timer ?_, fun hc hu => ⟨fun hk => write (.inr hc) hu hk ?_, fun hk => read (.inr hc) hu hk ?_⟩,
    fun hc hu hk r w ho => write (.inl hc) hu hk ?_, fun hc hu hk r ho => read (.inl hc) hu hk ?_,
    fun hc hu j c ho => ⟨fun hk => read (.inl hc) hu hk ?_, fun hk => ⟨fun hn => write (.inl hc) hu hk ?_, fun k hj hin => ?_⟩⟩⟩
  · rcases hc with hc | hc <;> simp only [expire, hf, hc]
  · have hno : isUp s l = false := by simpa [isUp] using hu
    rcases hc with hc | hc <;> simp only [expire, hf, hc, hno, Bool.false_eq_true, if_false] <;> rfl
  · rw [orphaned hc, writeFailed_none]
  · rw [orphaned hc]; rfl
  · rw [if_pos hc, ho, writeFailed_write]
  · rw [if_pos hc, ho]; rfl
  · rw [if_pos hc, ho]; rfl
  · rw [if_pos hc, ho]
    exact writeFailed_chunk_gone (s := X (count l .timeouts s)) hn
  · intro C
    refine write (.inl hc) hu hk ?_
    rw [if_pos hc, ho]
    exact writeFailed_chunk (s := X (count l .timeouts s)) hj hin

end Sys2Proof.Machine
end

section
/-! SUPPORT. Requests that reach an idle port (R150, R153 to R157): held, rejected, faulted, stalled; the stall conditions of R47. -/

namespace Sys2Proof.Machine

open Sys2Proof.Safety

/-! ## A request at an idle port -/

/-- The state with a request at the head. -/
def headed (r : Request) (s : State) : State := { s with link := { s.link with head := some r } }

/-- A request that reaches a quiet port without head is presented. -/
theorem exec_request_idle {s : State} (r : Request) (hn : s.notice.any = false) (hr : s.resetAsserted = false)
    (hh : s.link.head = none) (hw : s.link.waiting = []) : exec (.request r) s = .next (react (present (headed r s))) := by
  have harrive : exec (.request r) s = .next (react { s with link := { s.link with waiting := [r] } }) := by
    have hrun : exec (.request r) s = .next (react { s with link := { s.link with waiting := s.link.waiting ++ [r] } }) := rfl
    rw [hrun, hw]
    rfl
  have htake : takeNext { s with link := { s.link with waiting := [r] } } = present (headed r s) := by
    have hlink : ({ s.link with waiting := [], head := some r } : Link) = { s.link with head := some r } := by rw [← hw]
    have hnext : takeNext { s with link := { s.link with waiting := [r] } } =
        present { s with link := { s.link with waiting := [], head := some r } } := rfl
    rw [hnext, hlink]
    rfl
  have hwait : (reactUpTo 64 (present (headed r s))).link.waiting = [] :=
    ((reactUpTo_reacted 64 _).waiting.trans (present_reacted _).waiting).trans hw
  have hmay : mayTake { s with link := { s.link with waiting := [r] } } = true := by simp [mayTake, hh, hr]
  have hquiet : reactUpTo 64 { s with link := { s.link with waiting := [r] } } = { s with link := { s.link with waiting := [r] } } :=
    reactUpTo_quiet 64 hn
  have hbefore : react { s with link := { s.link with waiting := [r] } } = reactUpTo 64 (present (headed r s)) := by
    rw [react, hquiet]
    simp only [List.length_singleton, intake, hmay, if_true, htake]
  rw [harrive, hbefore, react, hwait]
  rfl

/-! ## Presentation at an idle port -/

section
variable {s : State} {r : Request}

theorem tagInUse_iff {t : Tag} : tagInUse s t = true ↔ ∃ x ∈ s.link.tags, x.tag = t := by
  simp [tagInUse]

theorem present_headed_route (hp : s.port.progress = .none) (ht : tagInUse s r.tag = false) (hm : isMalformed r = false) :
    present (headed r s) = route r (headed r s) :=
  present_of_wellFormed (s := headed r s) rfl (inReset_eq_false.mpr hp) ht hm

theorem route_noWindow (hl : lookupWindow s r.addr.toNat = none) (hp : ∀ l, s.passLeg = some l → (s.leg l).state ≠ .up) :
    route r s = faultHead r s := by
  rcases hpass : s.passLeg with _ | l
  · exact route_of_noWindow hl hpass
  · have hdown : isUp s l = false := by simpa [isUp] using hp l hpass
    simp only [route, hl, hpass, hdown, Bool.false_eq_true, if_false]

theorem route_faulted {w : WinIx} (hl : lookupWindow s r.addr.toNat = some w)
    (h : (s.win w).state = .draining ∨ isLost (s.win w) = true) : route r s = faultHead r s := by
  by_cases hd : (s.win w).state = .draining
  · simp only [route, hl, hd, beq_self_eq_true, if_true]
  · have hno : ((s.win w).state == .draining) = false := by simpa using hd
    have hlost : isLost (s.win w) = true := h.resolve_left hd
    simp only [route, hl, hno, Bool.false_eq_true, if_false, routeEnabled, hlost, if_true]

theorem route_enabled {w : WinIx} (hl : lookupWindow s r.addr.toNat = some w) (he : (s.win w).state = .enabled)
    (hlost : isLost (s.win w) = false) :
    route r s = match r.kind with
      | .write => match writeStall s w (segmentOf (s.win w) r.addr.toNat) with
        | some c => stall c s
        | none => acceptWrite w r (handOver r s)
      | .read => if 24 ≤ s.reads.length then stall .readTrackerFull s else acceptRead w r (handOver r s) := by
  have hno : ((s.win w).state == .draining) = false := by simp [he]
  simp only [route, hl, hno, Bool.false_eq_true, if_false, routeEnabled, hlost]
  rfl

end

/-! ## Lookup (R3) -/

theorem lookupWindow_some {s : State} {a : Nat} {w : WinIx} (h : lookupWindow s a = some w) :
    (s.win w).state ≠ .disabled ∧ (s.win w).base ≤ a ∧ a < (s.win w).base + (s.win w).size * 65536 := by
  have hw := List.find?_some h
  simp only [Window.covers, Bool.and_eq_true, decide_eq_true_eq, bne_iff_ne] at hw
  exact hw

theorem lookupWindow_none {s : State} {a : Nat} (h : lookupWindow s a = none) (w : WinIx) (hw : (s.win w).state ≠ .disabled) :
    ¬ ((s.win w).base ≤ a ∧ a < (s.win w).base + (s.win w).size * 65536) := by
  have hno := List.find?_eq_none.mp h w (mem_allWindows w)
  simp only [Window.covers, Bool.and_eq_true, decide_eq_true_eq, bne_iff_ne, not_and] at hno
  exact fun ⟨h1, h2⟩ => hno hw h1 h2

/-- Settles O42: `exec_request_idle`, and the tests of a presentation in their order. -/
theorem requestsAreHeldRejectedOrFaulted : Obligations.RequestsAreHeldRejectedOrFaulted := by
  refine ⟨fun s r => ⟨rfl, fun hn h => ?waits⟩, fun s r hn hr hh hw => ?idle, fun s a => ⟨fun w h => lookupWindow_some h, fun h w =>
    lookupWindow_none h w⟩⟩
  case waits =>
    refine react_quiet hn (.inl ?_)
    rcases h with h | h
    · simp [mayTake, h]
    · cases hhead : s.link.head with
      | none => exact absurd hhead h
      | some _ => simp [mayTake, hhead]
  case idle =>
    intro held settled free malformed
    have run {t : State} (e : present (headed r s) = t) : exec (.request r) s = .next (react t) :=
      (exec_request_idle r hn hr hh hw).trans (congrArg (fun u => Host.Outcome.next (react u)) e)
    have hmal : malformed ↔ isMalformed r = true := isMalformed_iff.symm
    have hfree (h : free) : tagInUse s r.tag = false := by simpa [tagInUse] using h.2
    refine ⟨fun hp => run ?_, fun hp ht => run ?_, fun hf hm => run ?_, fun hf hm hroute => ?_⟩
    · exact present_of_inReset (s := headed r s) rfl (inReset_eq_true.mpr hp)
    · exact present_of_tagBusy (s := headed r s) rfl (inReset_eq_false.mpr hp) (tagInUse_iff.mpr ht)
    · exact present_of_malformed (s := headed r s) rfl (inReset_eq_false.mpr hf.1) (hfree hf) (hmal.mp hm)
    · have hfault : present (headed r s) = faultHead r (headed r s) := by
        rw [present_headed_route hf.1 (hfree hf) (by simpa using mt hmal.mpr hm)]
        rcases hroute with ⟨w, hl, hwin⟩ | ⟨hl, hpass⟩
        · exact route_faulted (s := headed r s) hl hwin
        · exact route_noWindow (s := headed r s) hl hpass
      refine ⟨fun hk => run (hfault.trans ?_), fun hk => run (hfault.trans ?_)⟩
      · simp only [faultHead, faultItems, dueFor, hk]; rfl
      · simp only [faultHead, faultItems, dueFor, hk, faultBeats_eq, Nat.zero_add]; rfl

/-! ## Stall conditions (R47) -/

theorem releasedWaits_iff {s : State} {w : WinIx} {g : Nat} : releasedWaits s w g = true ↔
    ∃ n ∈ s.hold, ∃ e, findWrite s n = some e ∧ e.held = .released ∧ e.window = some w ∧ e.segment = some g := by
  simp only [releasedWaits, List.any_eq_true, Option.any_eq_true, Bool.and_eq_true, beq_iff_eq, and_assoc]

section
variable {s : State} {w : WinIx} {g : Nat}

theorem writeStall_trackerFull (h : 32 ≤ s.writes.length) : writeStall s w g = some .trackerFull := if_pos h

theorem writeStall_eq (h : s.writes.length < 32) : writeStall s w g =
    if closedFor s w g && decide (8 ≤ s.hold.length) then some .holdFull
    else if releasedWaits s w g then some .holdFull
    else if closedFor s w g then none
    else queueStall s (s.win w) (s.win w).writePolicy := if_neg (Nat.not_le.mpr h)

theorem canEnter_direct {l : LegIx} : canEnter s l .direct = true ↔ ¬ ((s.leg l).state ≠ .up ∨ 16 ≤ (s.leg l).direct.length) := by
  rw [canEnter, Bool.and_eq_true, beq_iff_eq, decide_eq_true_eq, not_or, not_not, Nat.not_le]
  rfl

/-- A write that meets no closed pass and no released write stalls on the queues. -/
theorem writeStall_open (h : s.writes.length < 32) (hc : closedFor s w g = false) (hr : releasedWaits s w g = false) :
    writeStall s w g = queueStall s (s.win w) (s.win w).writePolicy := by
  rw [writeStall_eq h]
  simp [hc, hr]

end

theorem needing_sync_direct (x : Window) : needing x .sync .direct = x.members.filter Member.takesWrites := by
  simp [needing, queueFor]

theorem needing_sync_lag (x : Window) : needing x .sync .lag = [] := by
  simp [needing, queueFor]

theorem mem_needing_lagged {x : Window} {k m : Member} (h : leadOf x = some k) (q : QueueName) :
    m ∈ needing x .lagged q ↔ m ∈ x.members.filter Member.takesWrites ∧ q = if k.leg = m.leg then .direct else .lag := by
  simp only [needing, queueFor, h, Option.any_some, beq_iff_eq, List.mem_filter, Bool.and_eq_true, and_assoc]
  exact and_congr_right fun _ => and_congr_right fun _ => eq_comm

/-- The DIRECT_FULL condition holds exactly if some member that needs a direct place finds none. -/
theorem queueStall_eq (s : State) (x : Window) (p : WritePolicy) : queueStall s x p =
    if (needing x p .direct).any fun m => !canEnter s m.leg .direct then some .directFull
    else if (needing x p .lag).any fun m => !isUp s m.leg ||
      (x.lagPolicy == .stall && decide (64 ≤ (s.leg m.leg).lag.length)) then some .lagFull
    else none := rfl

/-- Settles O43. -/
theorem stalledHeadsWaitAndAreRetried : Obligations.StalledHeadsWaitAndAreRetried := by
  refine ⟨fun s r w hn hr hh hw hp ht hm hl he hlost => ?stalls, fun s r hn hr hh hw => exec_request_idle r hn hr hh hw,
    fun s w g => ⟨releasedWaits_iff, fun h hc hr => writeStall_open h hc hr⟩, fun s w g => ?conditions,
    fun s h => reacts (c := .headRetry) rfl (if_neg (by simpa using h)), fun s h => reacts (c := .headRetry) rfl (if_pos (by simpa using h))⟩
  case stalls =>
    intro held
    have run {t : State} (e : route r (headed r s) = t) : exec (.request r) s = .next (react t) :=
      (exec_request_idle r hn hr hh hw).trans
        (congrArg (fun u => Host.Outcome.next (react u)) ((present_headed_route hp ht hm).trans e))
    have hroute := route_enabled (s := headed r s) (r := r) hl he hlost
    refine ⟨fun c hk hs => run ?_, fun hk hfull => run ?_⟩
    · have hstall : writeStall (headed r s) w (segmentOf ((headed r s).win w) r.addr.toNat) = some c := hs
      simp only [hroute, hk, hstall]
      rfl
    · have hreads : 24 ≤ (headed r s).reads.length := hfull
      simp only [hroute, hk, hreads, if_true]
      rfl
  case conditions =>
    intro ms noDirect
    have htakers : ms = (s.win w).members.filter Member.takesWrites := rfl
    refine ⟨writeStall_trackerFull, fun h hc hf => ?_, fun h hrel => ?_, fun h hc hf hrel => ?_, fun h hc hrel hp => ⟨fun hm => ?_, fun hm => ?_⟩,
      fun h hc hrel hp k hk => ⟨fun hm => ?_, fun hm => ⟨fun hlag => ?_, fun hlag => ?_⟩⟩⟩
    · rw [writeStall_eq h, if_pos (by simp [hc, hf])]
    · rw [writeStall_eq h, if_pos hrel, ite_self]
    · rw [writeStall_eq h, if_neg (by simp [hf]), if_neg (by simp [hrel]), if_pos hc]
    · obtain ⟨m, hmem, hno⟩ := hm
      have hany : ((needing (s.win w) .sync .direct).any fun m => !canEnter s m.leg .direct) = true := by
        rw [needing_sync_direct, ← htakers]
        exact List.any_eq_true.mpr ⟨m, hmem, by simpa using mt canEnter_direct.mp (not_not.mpr hno)⟩
      rw [writeStall_open h hc hrel, hp, queueStall_eq, if_pos hany]
    · have hany : ((needing (s.win w) .sync .direct).any fun m => !canEnter s m.leg .direct) = false := by
        rw [needing_sync_direct, ← htakers]
        exact List.any_eq_false.mpr fun m hmem => by simpa using canEnter_direct.mpr (hm m hmem)
      rw [writeStall_open h hc hrel, hp, queueStall_eq, hany, needing_sync_lag]
      rfl
    · obtain ⟨m, hmem, hleg, hno⟩ := hm
      have hany : ((needing (s.win w) .lagged .direct).any fun m => !canEnter s m.leg .direct) = true :=
        List.any_eq_true.mpr ⟨m, (mem_needing_lagged hk _).mpr ⟨hmem, by rw [if_pos hleg.symm]⟩,
          by simpa using mt canEnter_direct.mp (not_not.mpr hno)⟩
      rw [writeStall_open h hc hrel, hp, queueStall_eq, if_pos hany]
    · obtain ⟨m, hmem, hleg, hno⟩ := hlag
      have hany : ((needing (s.win w) .lagged .lag).any fun m => !isUp s m.leg ||
          ((s.win w).lagPolicy == .stall && decide (64 ≤ (s.leg m.leg).lag.length))) = true :=
        List.any_eq_true.mpr ⟨m, (mem_needing_lagged hk _).mpr ⟨hmem, by rw [if_neg (Ne.symm hleg)]⟩, by simpa [isUp] using hno⟩
      rw [writeStall_open h hc hrel, hp, queueStall_eq, direct_free hk hm, if_pos hany]
      rfl
    · have hany : ((needing (s.win w) .lagged .lag).any fun m => !isUp s m.leg ||
          ((s.win w).lagPolicy == .stall && decide (64 ≤ (s.leg m.leg).lag.length))) = false := by
        refine List.any_eq_false.mpr fun m hmem => ?_
        obtain ⟨htakes, hq⟩ := (mem_needing_lagged hk _).mp hmem
        have hleg : m.leg ≠ k.leg := fun he => by rw [if_pos he.symm] at hq; cases hq
        simpa [isUp] using hlag m htakes hleg
      rw [writeStall_open h hc hrel, hp, queueStall_eq, direct_free hk hm, hany]
      rfl
where
  /-- The lead, the only one that needs a direct place of a LAGGED write, finds one. -/
  direct_free {s : State} {x : Window} {k : Member} (hk : leadOf x = some k)
      (hm : ∀ m ∈ x.members.filter Member.takesWrites, m.leg = k.leg →
        ¬ ((s.leg m.leg).state ≠ .up ∨ 16 ≤ (s.leg m.leg).direct.length)) :
      ((needing x .lagged .direct).any fun m => !canEnter s m.leg .direct) = false := by
    refine List.any_eq_false.mpr fun m hmem => ?_
    obtain ⟨htakes, hq⟩ := (mem_needing_lagged hk _).mp hmem
    have hleg : m.leg = k.leg := by
      by_contra he
      rw [if_neg (Ne.symm he)] at hq
      cases hq
    simpa using canEnter_direct.mpr (hm m htakes hleg)

end Sys2Proof.Machine
end

section
/-! SUPPORT. Read steering (R68 to R85): acceptance, the table of R75, the choice of a member (R72, R73), placement, failure. -/

namespace Sys2Proof.Machine

open Sys2Proof.Safety

/-! ## Who can serve a read (R70, R71) -/

theorem findRead_ref {s : State} {r : Nat} {e : ReadEntry} (h : findRead s r = some e) : e.ref = r := by
  simpa using List.find?_some h

theorem canEnter_iff {s : State} {l : LegIx} {q : QueueName} :
    canEnter s l q = true ↔ (s.leg l).state = .up ∧ ((s.leg l).queue q).length < q.size := by
  rw [canEnter, Bool.and_eq_true, beq_iff_eq, decide_eq_true_eq]

theorem readFree_iff {s : State} {e : ReadEntry} {l : LegIx} :
    readFree s e l = true ↔ ∃ a k, e.rangeOn l = some (a, k) ∧
      ∀ x ∈ s.writes, l ∈ x.owed → ∀ b, addrOn x.legAddrs l = some b → ¬ Share a k b x.length := by
  rcases hrange : e.rangeOn l with _ | ⟨a, k⟩
  · simp [readFree, hrange]
  · rw [show readFree s e l = !owedBlocks s l a k by simp only [readFree, hrange], Bool.not_eq_true', ← Bool.not_eq_true,
      owedBlocks_iff]
    simp

/-- Leg `l` can serve the read, in the words of R70 and R71. -/
def Serves (s : State) (e : ReadEntry) (l : LegIx) : Prop :=
  (s.leg l).state = .up ∧ l ∉ e.tried ∧ (s.leg l).direct.length < 16 ∧ ∃ a k, e.rangeOn l = some (a, k) ∧
    ∀ x ∈ s.writes, l ∈ x.owed → ∀ b, addrOn x.legAddrs l = some b → ¬ Share a k b x.length

theorem canServe_iff {s : State} {e : ReadEntry} {l : LegIx} : canServe s e l = true ↔ Serves s e l := by
  rw [canServe, Bool.and_eq_true, Bool.and_eq_true, canEnter_iff, readFree_iff, Bool.not_eq_true', List.contains_eq_mem,
    decide_eq_false_iff_not]
  exact ⟨fun ⟨⟨⟨hu, hl⟩, ht⟩, hf⟩ => ⟨hu, ht, hl, hf⟩, fun ⟨hu, ht, hl, hf⟩ => ⟨⟨⟨hu, hl⟩, ht⟩, hf⟩⟩

/-- Member `m` is eligible (R70). -/
def CanTake (s : State) (e : ReadEntry) (m : Member) : Prop := m.state = some .current ∧ Serves s e m.leg

theorem eligible_iff {s : State} {e : ReadEntry} {m : Member} : eligible s e m = true ↔ CanTake s e m := by
  rw [eligible, Bool.and_eq_true, beq_iff_eq, canServe_iff]
  rfl

/-! ## The choice (R72, R73) -/

/-- A search finds the first that passes. -/
theorem first_of_find {α : Type} {p : α → Bool} {as : List α} {a : α} (h : as.find? p = some a) :
    p a = true ∧ ∃ before after, as = before ++ a :: after ∧ ∀ b ∈ before, ¬ p b = true := by
  obtain ⟨ha, before, after, has, hbefore⟩ := List.find?_eq_some_iff_append.mp h
  exact ⟨ha, before, after, has, fun b hb => by simpa using hbefore b hb⟩

/-- Whoever is searched for is in the list of members, in whatever order. -/
theorem mem_searchOrder {x : Window} {m : Member} : m ∈ searchOrder x ↔ m ∈ x.members := by
  unfold searchOrder
  split
  · rw [List.mem_append, or_comm, ← List.mem_append, List.take_append_drop]
  · rfl

/-- The first member with the fewest entries in flight. -/
theorem fewest_spec {s : State} {ms : List Member} {m : Member} (h : fewest s ms = some m) :
    ∃ before after, ms = before ++ m :: after ∧
      (∀ k ∈ ms, (s.leg m.leg).inflight.length ≤ (s.leg k.leg).inflight.length) ∧
      ∀ k ∈ before, (s.leg m.leg).inflight.length < (s.leg k.leg).inflight.length := by
  induction ms generalizing m with
  | nil => cases h
  | cons a as ih =>
    unfold fewest at h
    rcases hrest : fewest s as with _ | k
    · rw [hrest] at h
      obtain rfl := Option.some.inj h
      have has : as = [] := by
        cases as with
        | nil => rfl
        | cons b bs =>
          unfold fewest at hrest
          split at hrest
          · cases hrest
          · split at hrest <;> cases hrest
      exact ⟨[], as, rfl, by simp [has], by simp⟩
    · obtain ⟨before, after, has, hleast, hbefore⟩ := ih hrest
      rw [hrest] at h
      dsimp only at h
      split at h
      next hle =>
        obtain rfl := Option.some.inj h
        refine ⟨[], as, rfl, fun b hb => ?_, by simp⟩
        rcases List.mem_cons.mp hb with rfl | hb
        · exact Nat.le_refl _
        · exact Nat.le_trans hle (hleast b hb)
      next hgt =>
        obtain rfl := Option.some.inj h
        refine ⟨a :: before, after, by rw [has]; rfl, fun b hb => ?_, fun b hb => ?_⟩
        · rcases List.mem_cons.mp hb with rfl | hb
          · omega
          · exact hleast b hb
        · rcases List.mem_cons.mp hb with rfl | hb
          · omega
          · exact hbefore b hb

theorem fewest_isSome {s : State} {ms : List Member} (h : ms ≠ []) : (fewest s ms).isSome = true := by
  cases ms with
  | nil => exact absurd rfl h
  | cons a as =>
    unfold fewest
    split
    · rfl
    · split <;> rfl

/-- A filtered list's split comes from a split of the list, where all before that pass are before. -/
theorem split_of_filter_split {α : Type} {p : α → Bool} {as before after : List α} {a : α}
    (h : as.filter p = before ++ a :: after) :
    ∃ before' after', as = before' ++ a :: after' ∧ before'.filter p = before := by
  obtain ⟨u, v, has, hu, hv⟩ := List.filter_eq_append_iff.mp h
  obtain ⟨u', v', hv', hu', -, hrest⟩ := List.filter_eq_cons_iff.mp hv
  refine ⟨u ++ u', v', by rw [has, hv', List.append_assoc], ?_⟩
  rw [List.filter_append, hu, List.filter_eq_nil_iff.mpr hu', List.append_nil]

/-- What R72 and R73 say of the member chosen. -/
theorem choose_some {s : State} {e : ReadEntry} {x : Window} {m : Member} (h : choose s e x = some m) :
    m ∈ x.members ∧ CanTake s e m ∧
      (x.readPolicy = .ordered → ∃ before after, x.members = before ++ m :: after ∧ ∀ k ∈ before, ¬ CanTake s e k) ∧
      (x.readPolicy = .shortest →
        (∀ k ∈ x.members, CanTake s e k → (s.leg m.leg).inflight.length ≤ (s.leg k.leg).inflight.length) ∧
        ∃ before after, x.members = before ++ m :: after ∧
          ∀ k ∈ before, CanTake s e k → (s.leg m.leg).inflight.length < (s.leg k.leg).inflight.length) ∧
      (x.readPolicy = .rotate → ∃ before after,
        x.members.drop x.rotate ++ x.members.take x.rotate = before ++ m :: after ∧ ∀ k ∈ before, ¬ CanTake s e k) := by
  have search (hs : (searchOrder x).find? (eligible s e) = some m) : m ∈ x.members ∧ CanTake s e m ∧
      ∃ before after, searchOrder x = before ++ m :: after ∧ ∀ k ∈ before, ¬ CanTake s e k := by
    obtain ⟨hm, before, after, has, hbefore⟩ := first_of_find hs
    exact ⟨mem_searchOrder.mp (has ▸ by simp), eligible_iff.mp hm, before, after, has, fun k hk => mt eligible_iff.mpr (hbefore k hk)⟩
  unfold choose at h
  split at h
  next hp =>
    obtain ⟨hmem, hcan, hsplit⟩ := search h
    rw [searchOrder, if_neg (by simp [hp])] at hsplit
    exact ⟨hmem, hcan, fun _ => hsplit, fun hn => by simp [hp] at hn, fun hn => by simp [hp] at hn⟩
  next hp =>
    obtain ⟨hmem, hcan, hsplit⟩ := search h
    rw [searchOrder, if_pos (by simp [hp])] at hsplit
    exact ⟨hmem, hcan, fun hn => by simp [hp] at hn, fun hn => by simp [hp] at hn, fun _ => hsplit⟩
  next hp =>
    obtain ⟨before, after, hfilter, hleast, hbefore⟩ := fewest_spec h
    obtain ⟨before', after', has, hbefore'⟩ := split_of_filter_split hfilter
    have hmem : m ∈ x.members.filter (eligible s e) := hfilter ▸ by simp
    obtain ⟨hmem, hcan⟩ := List.mem_filter.mp hmem
    refine ⟨hmem, eligible_iff.mp hcan, fun hn => by simp [hp] at hn, fun _ => ⟨fun k hk hck => ?_, before', after', has, fun k hk hck => ?_⟩,
      fun hn => by simp [hp] at hn⟩
    · exact hleast k (List.mem_filter.mpr ⟨hk, eligible_iff.mpr hck⟩)
    · exact hbefore k (hbefore' ▸ List.mem_filter.mpr ⟨hk, eligible_iff.mpr hck⟩)

theorem choose_isSome {s : State} {e : ReadEntry} {x : Window} : (choose s e x).isSome = true ↔ ∃ m ∈ x.members, CanTake s e m := by
  have search : ((searchOrder x).find? (eligible s e)).isSome = true ↔ ∃ m ∈ x.members, CanTake s e m := by
    simp only [List.find?_isSome, mem_searchOrder, eligible_iff]
  unfold choose
  split
  · exact search
  · exact search
  · constructor
    · intro h
      obtain ⟨m, hm⟩ := Option.isSome_iff_exists.mp h
      obtain ⟨before, after, hfilter, -⟩ := fewest_spec hm
      have hmem : m ∈ x.members.filter (eligible s e) := hfilter ▸ by simp
      exact ⟨m, (List.mem_filter.mp hmem).1, eligible_iff.mp (List.mem_filter.mp hmem).2⟩
    · rintro ⟨m, hm, hcan⟩
      exact fewest_isSome (List.ne_nil_of_mem (List.mem_filter.mpr ⟨hm, eligible_iff.mpr hcan⟩))

theorem choose_eq_none {s : State} {e : ReadEntry} {x : Window} : choose s e x = none ↔ ∀ m ∈ x.members, ¬ CanTake s e m := by
  rw [← Option.not_isSome_iff_eq_none, choose_isSome]
  simp

/-! ## Steering (R75, R83, R85) -/

/-- The FAULT items of a read's undelivered beats. -/
def undelivered (e : ReadEntry) : List AnswerItem :=
  (List.range (e.beatsTotal - e.delivered)).map fun k => .beat e.tag (e.delivered + k) .fault (List.replicate 16 0)

/-- The read is answered FAULT on its undelivered beats, and retires. -/
def readFaulted (s : State) (n : Nat) (e : ReadEntry) : State :=
  { s with
    reads := s.reads.filter fun x => x.ref != n
    link := { s.link with answers := s.link.answers ++ undelivered e }
    notice := { s.notice with work := true, head := true } }

section
variable {s : State} {n : Nat} {e : ReadEntry}

theorem faultRead_eq (h : findRead s n = some e) : faultRead n s = readFaulted s n e := by
  simp only [faultRead, h, faultBeats_eq]
  rfl

theorem steer_gone (h : findRead s n = none) : steer n s = s := by simp only [steer, h]

theorem steer_issued (h : findRead s n = some e) (hc : e.current ≠ none) : steer n s = s := by
  have hsome : e.current.isSome = true := Option.isSome_iff_ne_none.mpr hc
  simp only [steer, h, hsome, if_true]

theorem steer_window {w : WinIx} (h : findRead s n = some e) (hc : e.current = none) (hw : e.window = some w) :
    steer n s = steerWindow e w s := by
  simp only [steer, h, hc, Option.isSome_none, Bool.false_eq_true, if_false, hw]

theorem steer_pass {l : LegIx} {a : Nat} {as : List (LegIx × Nat)} (h : findRead s n = some e) (hc : e.current = none)
    (hw : e.window = none) (ha : e.legAddrs = (l, a) :: as) : steer n s = steerPass e l s := by
  simp only [steer, h, hc, Option.isSome_none, Bool.false_eq_true, if_false, hw, ha]

theorem steerWindow_lost {w : WinIx} (h : findRead s n = some e) (hl : isLost (s.win w) = true) :
    steerWindow e w s = readFaulted s n e := by
  rw [steerWindow, if_pos hl, findRead_ref h, faultRead_eq h]

theorem steerWindow_placed {w : WinIx} {m : Member} (h : findRead s n = some e) (hl : isLost (s.win w) = false)
    (hm : choose s e (s.win w) = some m) : steerWindow e w s = advanceRotate w m.leg (placeRead n m.leg s) := by
  rw [steerWindow, if_neg (by simp [hl]), hm, findRead_ref h]

theorem steerWindow_waits {w : WinIx} (hl : isLost (s.win w) = false) (hm : choose s e (s.win w) = none)
    (hu : ∃ m ∈ (s.win w).members, m.state = some .current ∧ m.leg ∉ e.tried) : steerWindow e w s = s := by
  rw [steerWindow, if_neg (by simp [hl]), hm]
  exact if_pos (by simpa using hu)

theorem steerWindow_fails {w : WinIx} (h : findRead s n = some e) (hl : isLost (s.win w) = false) (hm : choose s e (s.win w) = none)
    (hu : ∀ m ∈ (s.win w).members, m.state = some .current → m.leg ∈ e.tried) : steerWindow e w s = readFaulted s n e := by
  rw [steerWindow, if_neg (by simp [hl]), hm]
  refine (if_neg (by simpa using hu)).trans ?_
  rw [findRead_ref h, faultRead_eq h]

end

theorem reconsider_issued {s : State} (h : ∀ e ∈ s.reads, e.current ≠ none) : reconsider s = s := by
  have hsteer (n : Nat) : steer n s = s := by
    cases hf : findRead s n with
    | none => exact steer_gone hf
    | some e => exact steer_issued hf (h e (List.mem_of_find?_eq_some hf))
  exact foldl_fixed _ hsteer
where
  /-- A fold of steps that each leave the state alone. -/
  foldl_fixed {s : State} (ns : List Nat) (h : ∀ n, steer n s = s) : ns.foldl (fun u n => steer n u) s = s := by
    induction ns with
    | nil => rfl
    | cons n ns ih => rw [List.foldl_cons, h, ih]

/-! ## Placement (R74, R82) -/

theorem enqueue_of_canEnter {s : State} {l : LegIx} {q : QueueName} (h : canEnter s l q = true) (k : ReqKind) (a n : Nat) (d : List Byte)
    (o : Owner) : enqueue l q k a n d o s = s.setLeg l { (s.leg l).setQueue q ((s.leg l).queue q ++
      [{ kind := k, addr := a, length := n, data := d, owner := o, age := (s.leg l).nextAge }]) with
      nextAge := (s.leg l).nextAge + 1 } := if_pos h

/-- The bytes that a placement asks for: from the first undelivered beat, the read's own address for beat 0 (R69). -/
theorem beatStart_eq (a k : Nat) : beatStart a k = if k = 0 then a else a / 16 * 16 + 16 * k := by
  simp only [beatStart, beq_iff_eq]

theorem rangeOn_eq {e : ReadEntry} {l : LegIx} {b : Nat} (h : addrOn e.legAddrs l = some b) :
    e.rangeOn l = some (b + (beatStart e.addr e.delivered - e.addr), e.addr + e.length - beatStart e.addr e.delivered) := by
  simp only [ReadEntry.rangeOn, h, Option.map_some]

/-- The read is on leg `l`, its request in the direct queue. -/
def readPlaced (s : State) (n : Nat) (l : LegIx) (a k : Nat) : State :=
  { s.setLeg l { s.leg l with
      direct := (s.leg l).direct ++
        [{ kind := .read, addr := a, length := k, data := [], owner := .read n, age := (s.leg l).nextAge }]
      nextAge := (s.leg l).nextAge + 1 } with
    reads := s.reads.map fun x => if x.ref == n
      then { x with tried := legInsert l x.tried, current := some l, issueBeat := some x.delivered, failedOn := none } else x }

theorem placeRead_eq {s : State} {n : Nat} {l : LegIx} {e : ReadEntry} {a k : Nat} (h : findRead s n = some e)
    (hr : e.rangeOn l = some (a, k)) (hc : canEnter s l .direct = true) :
    placeRead n l s = match e.failedOn with
      | some f => count f .failovers (readPlaced s n l a k)
      | none => readPlaced s n l a k := by
  simp only [placeRead, h, hr, enqueue_of_canEnter hc] <;> rfl

theorem advanceRotate_eq {s : State} {w : WinIx} {l : LegIx} {i : Nat} (hp : (s.win w).readPolicy = .rotate)
    (hi : (s.win w).members.findIdx? (fun k => k.leg == l) = some i) :
    advanceRotate w l s = s.setWin w { s.win w with rotate := if i + 1 < (s.win w).members.length then i + 1 else 0 } := by
  have hpos : positionOf (s.win w).members l = i := by rw [positionOf, hi]; rfl
  rw [advanceRotate, if_pos (by simpa using hp), modWin, positionAfter, hpos]

/-! ## Acceptance (R68, R85) -/

theorem route_pass {s : State} {r : Request} {l : LegIx} (hl : lookupWindow s r.addr.toNat = none) (hp : s.passLeg = some l)
    (hu : (s.leg l).state = .up) : route r s = routePass l r s := by
  simp only [route, hl, hp, isUp_iff.mpr hu, if_true]

/-- Settles O45: the tests of a presentation for the acceptance, `choose_some` and the lemmas on `steerWindow` for the table. -/
theorem readsAreSteeredByTheTable : Obligations.ReadsAreSteeredByTheTable := by
  refine ⟨fun s r w hn hr hh hw hp ht hm hl he hlost hk hroom => ?accept, fun s w r => rfl,
    fun s r l hn hr hh hw hp ht hm hl hpass hu hk => ?pass, fun s => rfl, fun s => ⟨rfl, reconsider_issued⟩, fun s n e h hc => ?table,
    fun s n l e b h hb hc => ?place, fun s n l => ?fail, fun s w l => ⟨fun h => if_neg (by simpa using h), fun i hp hi => advanceRotate_eq hp hi⟩⟩
  case accept =>
    have hroute := route_enabled (s := headed r s) (r := r) hl he hlost
    have hno : ¬ 24 ≤ (headed r s).reads.length := Nat.not_le.mpr hroom
    refine (exec_request_idle r hn hr hh hw).trans (congrArg (fun u => Host.Outcome.next (react u)) ?_)
    rw [present_headed_route hp ht hm, hroute]
    simp only [hk, hno, if_false, handOver, dueFor]
    rfl
  case pass =>
    intro k e
    have hpresent : present (headed r s) = routePass l r (headed r s) :=
      (present_headed_route hp ht hm).trans (route_pass (s := headed r s) hl hpass hu)
    have run {t : State} (e : routePass l r (headed r s) = t) : exec (.request r) s = .next (react t) :=
      (exec_request_idle r hn hr hh hw).trans (congrArg (fun u => Host.Outcome.next (react u)) (hpresent.trans e))
    refine ⟨fun hfull => run ?_, fun hroom => run ?_⟩
    · have hreads : 24 ≤ (headed r s).reads.length := hfull
      simp only [routePass, hk, Config.readTrackerSize, hreads, if_true]
      rfl
    · have hno : ¬ 24 ≤ (headed r s).reads.length := Nat.not_le.mpr hroom
      simp only [routePass, hk, Config.readTrackerSize, hno, if_false, handOver, dueFor]
      rfl
  case table =>
    intro faults faulted serves
    refine ⟨fun w hw => ?_, fun l a as hw ha => ?_⟩
    · intro ms can lost
      have hlost : isLost (s.win w) = true ↔ lost := isLost_iff
      rw [steer_window h hc hw]
      refine ⟨fun hl => steerWindow_lost h (hlost.mpr hl), fun hl hex => ?_, fun hl hno => ?_⟩
      · have hkeep : isLost (s.win w) = false := by simpa using mt hlost.mp hl
        obtain ⟨m, hm⟩ := Option.isSome_iff_exists.mp (choose_isSome.mpr hex)
        obtain ⟨hmem, hcan, hordered, hshortest, hrotate⟩ := choose_some hm
        exact ⟨m, hmem, hcan, steerWindow_placed h hkeep hm, hordered, hshortest, hrotate⟩
      · have hkeep : isLost (s.win w) = false := by simpa using mt hlost.mp hl
        have hnone : choose s e (s.win w) = none := choose_eq_none.mpr hno
        exact ⟨steerWindow_waits hkeep hnone, steerWindow_fails h hkeep hnone⟩
    · have hserve : canServe s e l = true ↔ serves l := canServe_iff
      rw [steer_pass h hc hw ha, steerPass, findRead_ref h]
      refine ⟨fun hs => if_pos (hserve.mpr hs), fun hs hu ht => ?_, fun hu => ?_⟩
      · rw [if_neg (mt hserve.mp hs), if_pos (by simp [isUp, hu, ht])]
      · have hno : ¬ serves l := by
          rintro ⟨hup, htried, -⟩
          rcases hu with hu | hu
          · exact hu hup
          · exact htried hu
        have hstop : ¬ (isUp s l && !e.tried.contains l) = true := by
          rcases hu with hu | hu <;> simp [isUp, hu]
        rw [if_neg (mt hserve.mp hno), if_neg hstop, faultRead_eq h]
        rfl
  case place =>
    intro first p req placed
    have hfirst : beatStart e.addr e.delivered = first := beatStart_eq _ _
    have hrange := rangeOn_eq hb
    rw [hfirst] at hrange
    have hplaced : readPlaced s n l (b + (first - e.addr)) (e.addr + e.length - first) = placed := rfl
    refine ⟨hrange, fun hf => ?_, fun k hf => ?_⟩
    · rw [placeRead_eq h hrange hc, hf, hplaced]
    · rw [placeRead_eq h hrange hc, hf, hplaced]
      rfl
  case fail =>
    simp only [failRead, modRead]
    congr 2
    refine List.map_congr_left fun x _ => ?_
    rcases x.window with _ | w <;> rfl

end Sys2Proof.Machine
end

section
/-! SUPPORT. Placing a write on a leg (R49, R50, R63): the withdrawals it brings (R77, R112), and what it leaves alone. -/

namespace Sys2Proof.Machine

open Sys2Proof.Safety

/-! ## Withdrawn reads (R77) -/

/-- An entry whose unsent request is withdrawn waits again, the leg out of its tried set. -/
def ReadEntry.withdrawn (l : LegIx) (e : ReadEntry) : ReadEntry :=
  { e with tried := legErase l e.tried, current := none, issueBeat := none }

theorem legErase_legErase (l : LegIx) (ls : List LegIx) : legErase l (legErase l ls) = legErase l ls := by
  simp [legErase, List.filter_filter]

theorem withdrawn_withdrawn (l : LegIx) (e : ReadEntry) : (e.withdrawn l).withdrawn l = e.withdrawn l := by
  simp only [ReadEntry.withdrawn, legErase_legErase]

theorem withdrawRead_eq (l : LegIx) (s : State) (r : LegRequest) :
    withdrawRead l s r = { s with reads := s.reads.map fun e => if r.owner == .read e.ref then e.withdrawn l else e } := by
  unfold withdrawRead modRead ReadEntry.withdrawn
  have same (o : Owner) (h : ∀ n, o ≠ .read n) (e : ReadEntry) : (o == Owner.read e.ref) = false := by simpa using h e.ref
  split
  next n ho =>
    rw [ho]
    congr 1
    refine List.map_congr_left fun e _ => ?_
    have hcond : (e.ref == n) = (Owner.read n == Owner.read e.ref) := by
      rw [Bool.eq_iff_iff, beq_iff_eq, beq_iff_eq, Owner.read.injEq]
      exact eq_comm
    rw [hcond]
  next n w ho => simp [ho]
  next n c ho => simp [ho]

/-- A row of withdrawals: the entries named by any of the requests. -/
theorem foldl_withdrawRead (l : LegIx) (rs : List LegRequest) (s : State) :
    rs.foldl (withdrawRead l) s =
      { s with reads := s.reads.map fun e => if rs.any fun r => r.owner == .read e.ref then e.withdrawn l else e } := by
  induction rs generalizing s with
  | nil => simp
  | cons r rs ih =>
    rw [List.foldl_cons, withdrawRead_eq, ih, List.map_map]
    congr 1
    refine List.map_congr_left fun e _ => ?_
    have href : (e.withdrawn l).ref = e.ref := rfl
    by_cases hr : (r.owner == Owner.read e.ref) = true
    · simp only [Function.comp_apply, hr, if_true, href, List.any_cons, Bool.true_or]
      split
      · exact withdrawn_withdrawn l e
      · rfl
    · simp only [Function.comp_apply, hr, Bool.false_eq_true, if_false, List.any_cons, Bool.false_or]

section
variable {s : State} {l : LegIx} {a n : Nat}

theorem withdrawReads_none (h : ∀ r ∈ (s.leg l).direct, r.readIn a n = false) : withdrawReads l a n s = s := by
  have hout : (s.leg l).direct.filter (LegRequest.readIn a n) = [] := List.filter_eq_nil_iff.mpr fun r hr => by simp [h r hr]
  simp only [withdrawReads, hout, List.isEmpty_nil, if_true]

theorem withdrawReads_some (h : ∃ r ∈ (s.leg l).direct, r.readIn a n = true) :
    withdrawReads l a n s = { s.setLeg l { s.leg l with direct := (s.leg l).direct.filter fun r => !r.readIn a n } with
      reads := s.reads.map fun e => if (s.leg l).direct.any fun r => r.readIn a n && r.owner == .read e.ref
        then e.withdrawn l else e
      notice := Notice.full } := by
  obtain ⟨r, hr, hcut⟩ := h
  have hout : ((s.leg l).direct.filter (LegRequest.readIn a n)).isEmpty = false := by
    simpa using ⟨r, hr, hcut⟩
  simp only [withdrawReads, hout, Bool.false_eq_true, if_false, foldl_withdrawRead, List.any_filter]
  rfl

/-! ## Withdrawn chunk reads (R112) -/

/-- A lower bound that is among some numbers is what their minimum folds to. -/
theorem foldl_min_eq {a c : Nat} {ns : List Nat} (hc : c = a ∨ c ∈ ns) (hle : c ≤ a ∧ ∀ k ∈ ns, c ≤ k) : ns.foldl min a = c := by
  induction ns generalizing a with
  | nil =>
    rcases hc with rfl | hc
    · rfl
    · simp at hc
  | cons b ns ih =>
    obtain ⟨ha, hns⟩ := hle
    have hb := hns b (List.mem_cons_self ..)
    refine ih ?_ ⟨Nat.le_min.mpr ⟨ha, hb⟩, fun k hk => hns k (List.mem_cons_of_mem _ hk)⟩
    rcases hc with rfl | hc
    · exact .inl (Nat.min_eq_left hb).symm
    · rcases List.mem_cons.mp hc with rfl | hc
      · exact .inl (Nat.min_eq_right ha).symm
      · exact .inr hc

theorem withdrawChunks_none (h : ∀ r ∈ (s.leg l).copy, r.readIn a n = true → r.chunkRead = none) : withdrawChunks l a n s = s := by
  have hout : ((s.leg l).copy.filter (LegRequest.readIn a n)).filterMap LegRequest.chunkRead = [] :=
    List.filterMap_eq_nil_iff.mpr fun r hr => h r (List.mem_filter.mp hr).1 (List.mem_filter.mp hr).2
  simp only [withdrawChunks, hout]

theorem modJob_running {s : State} {j : Job} {js : List Job} (h : s.jobs = j :: js) (hr : j.running = true) (f : Job → Job) :
    modJob f s = { s with jobs := f j :: js } := by
  simp only [modJob, h, hr, if_true]

theorem withdrawChunks_some {j : Job} {js : List Job} {c : Nat} (hj : s.jobs = j :: js) (hrun : j.running = true)
    (hc : ∃ r ∈ (s.leg l).copy, r.readIn a n = true ∧ r.chunkRead = some c)
    (hle : ∀ r ∈ (s.leg l).copy, ∀ k, r.readIn a n = true → r.chunkRead = some k → c ≤ k) :
    withdrawChunks l a n s =
      { s.setLeg l { s.leg l with copy := (s.leg l).copy.filter fun r => !(r.chunkRead.any fun k => decide (c ≤ k)) } with
        jobs := { j with
          chunks := j.chunks.filter fun k => !(k.phase == .reading && decide (c ≤ k.index)), nextChunk := c } :: js
        notice := Notice.full } := by
  have hmem : c ∈ ((s.leg l).copy.filter (LegRequest.readIn a n)).filterMap LegRequest.chunkRead := by
    obtain ⟨r, hr, hcut, hchunk⟩ := hc
    exact List.mem_filterMap.mpr ⟨r, List.mem_filter.mpr ⟨hr, hcut⟩, hchunk⟩
  have hbound : ∀ k ∈ ((s.leg l).copy.filter (LegRequest.readIn a n)).filterMap LegRequest.chunkRead, c ≤ k := by
    intro k hk
    obtain ⟨r, hr, hchunk⟩ := List.mem_filterMap.mp hk
    exact hle r (List.mem_filter.mp hr).1 k (List.mem_filter.mp hr).2 hchunk
  unfold withdrawChunks
  split
  next hnil => rw [hnil] at hmem; simp at hmem
  next b bs hcons =>
    rw [hcons] at hmem hbound
    have hlow : bs.foldl min b = c :=
      foldl_min_eq (List.mem_cons.mp hmem) ⟨hbound b (List.mem_cons_self ..), fun k hk => hbound k (List.mem_cons_of_mem _ hk)⟩
    rw [hlow]
    dsimp only
    rw [modJob_running (j := j) (js := js) (by exact hj) hrun]
    rfl

theorem chunkRead_iff {r : LegRequest} {c : Nat} : r.chunkRead = some c ↔ r.kind = .read ∧ ∃ n, r.owner = .chunk n c := by
  unfold LegRequest.chunkRead
  split
  next hk ho => simp [hk, ho]
  next hno =>
    exact ⟨fun h => (nomatch h), fun ⟨hk, m, ho⟩ => absurd ho (hno m c hk)⟩

/-! ## What the withdrawals leave -/

/-- What is left of a state whose unsent reads have given way to a write on leg `l`. -/
structure Cleared (l : LegIx) (a n : Nat) (s t : State) : Prop where
  writes : t.writes = s.writes
  state : (t.leg l).state = (s.leg l).state
  nextAge : (t.leg l).nextAge = (s.leg l).nextAge
  direct : (t.leg l).direct = (s.leg l).direct.filter fun r => !r.readIn a n
  lag : (t.leg l).lag = (s.leg l).lag
  copy : (t.leg l).copy.Sublist (s.leg l).copy
  other : ∀ k, k ≠ l → t.leg k = s.leg k

theorem modJob_writes (s : State) (f : Job → Job) : (modJob f s).writes = s.writes := by
  unfold modJob
  split
  · split <;> rfl
  · rfl

theorem modJob_leg (s : State) (f : Job → Job) (l : LegIx) : (modJob f s).leg l = s.leg l := by
  unfold modJob
  split
  · split <;> rfl
  · rfl

theorem withdrawReads_cleared (s : State) (l : LegIx) (a n : Nat) : Cleared l a n s (withdrawReads l a n s) := by
  by_cases h : ∃ r ∈ (s.leg l).direct, r.readIn a n = true
  · have hleg : (withdrawReads l a n s).leg l =
        { s.leg l with direct := (s.leg l).direct.filter fun r => !r.readIn a n } := by
      rw [withdrawReads_some h]
      exact setLeg_leg_self s l _
    refine ⟨by rw [withdrawReads_some h]; rfl, ?_, ?_, ?_, ?_, ?_, fun k hk => ?_⟩ <;> try rw [hleg]
    rw [withdrawReads_some h]
    exact setLeg_leg_of_ne s _ (Ne.symm hk)
  · have hno : ∀ r ∈ (s.leg l).direct, r.readIn a n = false := by simpa using h
    rw [withdrawReads_none hno]
    refine ⟨rfl, rfl, rfl, ?_, rfl, List.Sublist.refl _, fun _ _ => rfl⟩
    exact (List.filter_eq_self.mpr fun r hr => by simp [hno r hr]).symm

/-- The withdrawal of chunk reads leaves all but the copy channel. -/
theorem withdrawChunks_rest (s : State) (l : LegIx) (a n : Nat) :
    (withdrawChunks l a n s).writes = s.writes ∧
    (∃ q, q.Sublist (s.leg l).copy ∧ (withdrawChunks l a n s).leg l = { s.leg l with copy := q }) ∧
    ∀ k, k ≠ l → (withdrawChunks l a n s).leg k = s.leg k := by
  unfold withdrawChunks
  split
  · exact ⟨rfl, ⟨_, List.Sublist.refl _, rfl⟩, fun _ _ => rfl⟩
  next c cs _ =>
    dsimp only
    refine ⟨(modJob_writes _ _).trans rfl,
      ⟨(s.leg l).copy.filter fun r => !r.chunkRead.any fun k => decide (cs.foldl min c ≤ k), List.filter_sublist, ?_⟩, fun k hk => ?_⟩
    · rw [raise_leg, modJob_leg, modLeg_leg_self]
    · rw [raise_leg, modJob_leg, modLeg_leg_of_ne _ _ (Ne.symm hk)]

/-- The unsent reads that a write on leg `l` overlaps are gone. -/
def readsCleared (l : LegIx) (a n : Nat) (s : State) : State := withdrawChunks l a n (withdrawReads l a n s)

theorem readsCleared_cleared (s : State) (l : LegIx) (a n : Nat) : Cleared l a n s (readsCleared l a n s) := by
  have h := withdrawReads_cleared s l a n
  obtain ⟨hwrites, ⟨q, hsub, hleg⟩, hother⟩ := withdrawChunks_rest (withdrawReads l a n s) l a n
  exact ⟨hwrites.trans h.writes, by rw [readsCleared, hleg]; exact h.state, by rw [readsCleared, hleg]; exact h.nextAge,
    by rw [readsCleared, hleg]; exact h.direct, by rw [readsCleared, hleg]; exact h.lag,
    by rw [readsCleared, hleg]; exact hsub.trans h.copy, fun k hk => (hother k hk).trans (h.other k hk)⟩

theorem Cleared.queue_length {t : State} (h : Cleared l a n s t) (q : QueueName) :
    ((t.leg l).queue q).length ≤ ((s.leg l).queue q).length := by
  cases q
  · exact (congrArg List.length h.direct).le.trans (List.length_filter_le _ _)
  · exact (congrArg List.length h.lag).le
  · exact h.copy.length_le

theorem Cleared.canEnter {t : State} (h : Cleared l a n s t) {q : QueueName} (hc : canEnter s l q = true) :
    Machine.canEnter t l q = true := by
  obtain ⟨hup, hroom⟩ := canEnter_iff.mp hc
  exact canEnter_iff.mpr ⟨h.state.trans hup, Nat.lt_of_le_of_lt (h.queue_length q) hroom⟩

end

/-! ## The placement -/

/-- The write as it waits on a leg. -/
def writeRequest (e : WriteEntry) (r a age : Nat) : LegRequest :=
  { kind := .write, addr := a, length := e.length, data := e.data, owner := .write r e.window, age := age }

section
variable {s : State} {r : Nat} {l : LegIx} {q : QueueName} {e : WriteEntry} {a : Nat}

theorem placeWrite_eq (h : findWrite s r = some e) (ha : addrOn e.legAddrs l = some a) (hc : canEnter s l q = true) :
    placeWrite r l q s =
      { (readsCleared l a e.length s).setLeg l { ((readsCleared l a e.length s).leg l).setQueue q
          (((readsCleared l a e.length s).leg l).queue q ++ [writeRequest e r a (s.leg l).nextAge]) with
          nextAge := (s.leg l).nextAge + 1 } with
        writes := s.writes.map fun x => if x.ref == r then { x with owed := legInsert l x.owed } else x
        notice := { (readsCleared l a e.length s).notice with work := true } } := by
  have hclear := readsCleared_cleared s l a e.length
  have hplace : placeWrite r l q s = (modWrite r (fun e => { e with owed := legInsert l e.owed })
      (enqueue l q .write a e.length e.data (.write r e.window) (readsCleared l a e.length s))).raiseWork := by
    simp only [placeWrite, h, ha, hc, if_true]
    rfl
  rw [hplace, enqueue_of_canEnter (hclear.canEnter hc), hclear.nextAge]
  simp only [modWrite, State.raiseWork, setLeg_writes, hclear.writes]
  rfl

/-- A placement changes no other leg. -/
theorem placeWrite_leg_of_ne (s : State) (r : Nat) (l : LegIx) (q : QueueName) {k : LegIx} (hk : k ≠ l) :
    (placeWrite r l q s).leg k = s.leg k := by
  rcases he : findWrite s r with _ | e
  · simp only [placeWrite, he]
  · rcases ha : addrOn e.legAddrs l with _ | a
    · simp only [placeWrite, he, ha]
    · by_cases hc : canEnter s l q = true
      · rw [placeWrite_eq he ha hc]
        exact (setLeg_leg_of_ne _ _ (Ne.symm hk)).trans ((readsCleared_cleared s l a e.length).other k hk)
      · simp only [placeWrite, he, ha, hc, Bool.false_eq_true, if_false]

theorem placeWrite_leg_self (h : findWrite s r = some e) (ha : addrOn e.legAddrs l = some a) (hc : canEnter s l q = true) :
    (placeWrite r l q s).leg l = { ((readsCleared l a e.length s).leg l).setQueue q
      (((readsCleared l a e.length s).leg l).queue q ++ [writeRequest e r a (s.leg l).nextAge]) with
      nextAge := (s.leg l).nextAge + 1 } := by
  rw [placeWrite_eq h ha hc]
  exact setLeg_leg_self _ l _

theorem findWrite_placeWrite (h : findWrite s r = some e) (ha : addrOn e.legAddrs l = some a) (hc : canEnter s l q = true) :
    findWrite (placeWrite r l q s) r = some { e with owed := legInsert l e.owed } := by
  rw [placeWrite_eq h ha hc]
  exact findWrite_modWrite (f := fun e => { e with owed := legInsert l e.owed }) (by intro e; rfl) h

end

end Sys2Proof.Machine
end

section
/-! SUPPORT. Acceptance and issue of writes (R48 to R54, R63). -/

namespace Sys2Proof.Machine

open Sys2Proof.Safety

/-! ## Recordings leave trackers, queues and jobs alone -/

/-- A change of slots, store and events only. -/
structure SlotsOnly (s t : State) : Prop where
  writes : t.writes = s.writes
  hold : t.hold = s.hold
  reads : t.reads = s.reads
  jobs : t.jobs = s.jobs
  legs : t.legs = s.legs
  link : t.link = s.link
  notice : t.notice = s.notice

theorem SlotsOnly.refl (s : State) : SlotsOnly s s := ⟨rfl, rfl, rfl, rfl, rfl, rfl, rfl⟩

theorem SlotsOnly.trans {s t u : State} (h : SlotsOnly s t) (k : SlotsOnly t u) : SlotsOnly s u :=
  ⟨k.writes.trans h.writes, k.hold.trans h.hold, k.reads.trans h.reads, k.jobs.trans h.jobs, k.legs.trans h.legs,
    k.link.trans h.link, k.notice.trans h.notice⟩

theorem SlotsOnly.foldl {α : Type} {f : State → α → State} (h : ∀ u a, SlotsOnly u (f u a)) (as : List α) (s : State) :
    SlotsOnly s (as.foldl f s) := by
  induction as generalizing s with
  | nil => exact .refl s
  | cons a as ih => exact (h s a).trans (ih _)

theorem addStale_slotsOnly (s : State) (w : WinIx) (l : LegIx) (g : Nat) : SlotsOnly s (addStale w l g s) := by
  unfold addStale
  split
  · split
    · exact .refl s
    · split
      · exact .refl s
      · split
        · exact ⟨rfl, rfl, rfl, rfl, rfl, rfl, rfl⟩
        · exact ⟨rfl, rfl, rfl, rfl, rfl, rfl, rfl⟩
  · exact .refl s

theorem SlotsOnly.leg {s t : State} (h : SlotsOnly s t) (l : LegIx) : t.leg l = s.leg l := by
  simp only [State.leg, h.legs]

theorem SlotsOnly.findWrite {s t : State} (h : SlotsOnly s t) (n : Nat) : Machine.findWrite t n = Machine.findWrite s n := by
  simp only [Machine.findWrite, h.writes]

/-! ## Issue (R49 to R51) -/

/-- The queue that a member receives a write in, as the statements write it. -/
theorem queueFor_eq (p : WritePolicy) (lead : Option Member) (m : Member) :
    queueFor p lead m = if p = .sync ∨ lead.any (fun k => k.leg == m.leg) = true then .direct else .lag := by
  cases p <;> simp [queueFor]

theorem legInsert_of_notMem {l : LegIx} {ls : List LegIx} (h : l ∉ ls) : legInsert l ls = ls ++ [l] :=
  if_neg (by simpa using h)

/-- The write waits at the tail of a queue of the leg. -/
def WriteAtTail (p : LegPort) (q : QueueName) (n : Nat) (e : WriteEntry) (l : LegIx) : Prop :=
  ∃ rs r, p.queue q = rs ++ [r] ∧ r.kind = .write ∧ addrOn e.legAddrs l = some r.addr ∧ r.length = e.length ∧ r.data = e.data ∧
    r.owner = .write n e.window

theorem setQueue_nextAge_queue (p : LegPort) (q : QueueName) (rs : List LegRequest) (n : Nat) :
    ({ p.setQueue q rs with nextAge := n } : LegPort).queue q = rs := by
  cases q <;> rfl

/-- One placement puts the write at its queue's tail. -/
theorem placeWrite_atTail {s : State} {n : Nat} {l : LegIx} {q : QueueName} {e : WriteEntry} (h : findWrite s n = some e)
    (ha : (addrOn e.legAddrs l).isSome = true) (hc : canEnter s l q = true) : WriteAtTail ((placeWrite n l q s).leg l) q n e l := by
  obtain ⟨a, ha⟩ := Option.isSome_iff_exists.mp ha
  rw [placeWrite_leg_self h ha hc]
  exact ⟨_, _, setQueue_nextAge_queue _ _ _ _, rfl, ha, rfl, rfl, rfl⟩

/-- The placements of an issue, one leg after another. -/
theorem foldl_placeWrite {e : WriteEntry} {n : Nat} {queue : Member → QueueName} {ms : List Member} {s : State} {done : List LegIx}
    (h : findWrite s n = some { e with owed := done }) (hn : (ms.map (·.leg)).Nodup) (hd : ∀ m ∈ ms, m.leg ∉ done)
    (hp : ∀ m ∈ ms, (addrOn e.legAddrs m.leg).isSome = true ∧ canEnter s m.leg (queue m) = true) :
    let t := ms.foldl (fun u m => placeWrite n m.leg (queue m) u) s
    findWrite t n = some { e with owed := done ++ ms.map (·.leg) } ∧
      (∀ m ∈ ms, WriteAtTail (t.leg m.leg) (queue m) n e m.leg) ∧ ∀ l, (∀ m ∈ ms, m.leg ≠ l) → t.leg l = s.leg l := by
  induction ms generalizing s done with
  | nil => simpa using h
  | cons m ms ih =>
    obtain ⟨hm, hms⟩ := List.nodup_cons.mp (List.map_cons ▸ hn)
    have hne (k : Member) (hk : k ∈ ms) : k.leg ≠ m.leg := fun he => hm (he ▸ List.mem_map.mpr ⟨k, hk, rfl⟩)
    obtain ⟨haddr, hroom⟩ := hp m (List.mem_cons_self ..)
    obtain ⟨a, ha⟩ := Option.isSome_iff_exists.mp haddr
    have hplaced : findWrite (placeWrite n m.leg (queue m) s) n = some { e with owed := done ++ [m.leg] } := by
      rw [findWrite_placeWrite h ha hroom, legInsert_of_notMem (hd m (List.mem_cons_self ..))]
    have hother (k : LegIx) (hk : k ≠ m.leg) : (placeWrite n m.leg (queue m) s).leg k = s.leg k := placeWrite_leg_of_ne s n _ _ hk
    obtain ⟨hfind, htail, hrest⟩ := ih hplaced hms
      (fun k hk => by
        simp only [List.mem_append, List.mem_singleton, not_or]
        exact ⟨hd k (List.mem_cons_of_mem _ hk), hne k hk⟩)
      (fun k hk => ⟨(hp k (List.mem_cons_of_mem _ hk)).1, by
        simpa only [canEnter, hother _ (hne k hk)] using (hp k (List.mem_cons_of_mem _ hk)).2⟩)
    refine ⟨by simpa [List.append_assoc] using hfind, fun k hk => ?_, fun l hl => ?_⟩
    · rcases List.mem_cons.mp hk with rfl | hk
      · have hkeep := hrest k.leg (fun x hx => hne x hx)
        rw [List.foldl_cons, hkeep]
        exact placeWrite_atTail (e := { e with owed := done }) h haddr hroom
      · exact htail k hk
    · rw [List.foldl_cons, hrest l (fun k hk => hl k (List.mem_cons_of_mem _ hk)), hother l (Ne.symm (hl m (List.mem_cons_self ..)))]

theorem issueWrite_eq (n : Nat) (w : WinIx) (g : Nat) (p : WritePolicy) (s : State) :
    issueWrite n w g p s = ((s.win w).members.foldl (fun u m => addStale w m.leg g u)
      (((s.win w).members.filter Member.takesWrites).foldl (fun u m => placeWrite n m.leg
        (if p = .sync ∨ (leadOf (s.win w)).any (fun k => k.leg == m.leg) = true then .direct else .lag) u) s)).raiseWork := by
  simp only [← queueFor_eq]
  rfl

/-! ## Reports and overflow (R52, R54) -/

theorem copyingSegment_iff {s : State} {w : WinIx} {g : Nat} :
    copyingSegment s w g = true ↔ ∃ j, runningJob s = some j ∧ j.window = w ∧ j.segment = some g := by
  unfold copyingSegment
  cases runningJob s <;> simp

theorem runningJob_of_head {s : State} {j : Job} {js : List Job} (h : s.jobs = j :: js) (hr : j.running = true) :
    runningJob s = some j := by
  simp only [runningJob, h, hr, if_true]

theorem reportOpen_other {s : State} {w : WinIx} {g : Nat} (h : copyingSegment s w g = false) : reportOpen w g s = s :=
  if_neg (by simp [h])

theorem lagOverflow_none {s : State} {w : WinIx} {p : WritePolicy} (h : p = .sync ∨ (s.win w).lagPolicy = .stall) :
    lagOverflow w p s = s := by
  refine if_neg ?_
  rcases h with h | h <;> simp [h]

theorem needing_lagged_lag (x : Window) : needing x .lagged .lag = x.members.filter fun m =>
    (m.state == some .current || m.state == some .rebuilding) && (leadOf x).all fun k => k.leg != m.leg := by
  refine List.filter_congr fun m _ => ?_
  have hqueue : (queueFor .lagged (leadOf x) m == .lag) = (leadOf x).all fun k => k.leg != m.leg := by
    rcases hl : leadOf x with _ | k
    · rfl
    · by_cases h : k.leg = m.leg <;> simp [queueFor, h]
  rw [hqueue]
  rfl

theorem lagOverflow_eq {s : State} {w : WinIx} (h : (s.win w).lagPolicy = .demote) :
    lagOverflow w .lagged s = (needing (s.win w) .lagged .lag).foldl (fun u m =>
      if (u.leg m.leg).state = .up ∧ 64 ≤ (u.leg m.leg).lag.length
      then demoteHolding w m.leg .lagOverflow .lagOverflow u else u) s := by
  have hdue : (WritePolicy.lagged == .lagged && (s.win w).lagPolicy == .demote) = true := by simp [h]
  rw [lagOverflow, if_pos hdue]
  congr 1
  funext u m
  have hcond : (isUp u m.leg && decide (Config.lagSize ≤ (u.leg m.leg).lag.length)) = true ↔
      (u.leg m.leg).state = .up ∧ 64 ≤ (u.leg m.leg).lag.length := by
    rw [Bool.and_eq_true, isUp_iff, decide_eq_true_eq]
    rfl
  by_cases hc : (u.leg m.leg).state = .up ∧ 64 ≤ (u.leg m.leg).lag.length
  · rw [if_pos (hcond.mpr hc), if_pos hc]
  · rw [if_neg (mt hcond.mp hc), if_neg hc]

/-! ## Acceptance -/

theorem acceptWrite_held {s : State} {w : WinIx} {r : Request} (hc : closedFor s w (segmentOf (s.win w) r.addr.toNat) = true)
    (hfresh : ∀ e ∈ s.writes, e.ref < s.nextRef) :
    acceptWrite w r s = { s with
      writes := s.writes ++ [{ windowWrite s w r with held := .held }], nextRef := s.nextRef + 1, hold := s.hold ++ [s.nextRef] } := by
  have hc' : closedFor (addWrite (windowWrite s w r) s) w (segmentOf (s.win w) r.addr.toNat) = true := hc
  have hmap : (s.writes ++ [windowWrite s w r]).map (fun e => if e.ref == s.nextRef then { e with held := .held } else e) =
      s.writes ++ [{ windowWrite s w r with held := .held }] := by
    rw [List.map_append]
    congr 1
    · refine (List.map_congr_left fun e he => if_neg ?_).trans (List.map_id _)
      simpa using Nat.ne_of_lt (hfresh e he)
    · exact congrArg (fun x => [x]) (if_pos (beq_self_eq_true s.nextRef))
  rw [acceptWrite]
  dsimp only
  rw [if_pos hc']
  simp only [modWrite, addWrite]
  rw [← hmap]
  rfl

theorem acceptWrite_issued {s : State} {w : WinIx} {r : Request} (hc : closedFor s w (segmentOf (s.win w) r.addr.toNat) = false) :
    acceptWrite w r s = resumeIfDue (issueWrite s.nextRef w (segmentOf (s.win w) r.addr.toNat) (s.win w).writePolicy
      (lagOverflow w (s.win w).writePolicy (reportOpen w (segmentOf (s.win w) r.addr.toNat) (addWrite (windowWrite s w r) s)))) := by
  have hc' : ¬ closedFor (addWrite (windowWrite s w r) s) w (segmentOf (s.win w) r.addr.toNat) = true := by
    rw [show closedFor (addWrite (windowWrite s w r) s) w _ = _ from hc]
    decide
  rw [acceptWrite]
  dsimp only
  rw [if_neg hc']
  rfl

end Sys2Proof.Machine
end

section
/-! SUPPORT. Accepted writes (O44). -/

namespace Sys2Proof.Machine

open Sys2Proof.Safety

/-- Issue when every member that takes writes has an address and room (R49, R50). -/
theorem issueWrite_places {s : State} {n : Nat} {w : WinIx} (g : Nat) {p : WritePolicy} {e : WriteEntry} (h : findWrite s n = some e)
    (ho : e.owed = []) (hn : ((s.win w).members.map (·.leg)).Nodup) {queue : Member → QueueName}
    (hq : ∀ m, queue m = if p = .sync ∨ (leadOf (s.win w)).any (fun k => k.leg == m.leg) = true then .direct else .lag)
    (hp : ∀ m ∈ (s.win w).members.filter Member.takesWrites,
      (addrOn e.legAddrs m.leg).isSome = true ∧ canEnter s m.leg (queue m) = true) :
    let t := issueWrite n w g p s
    let takers := (s.win w).members.filter Member.takesWrites
    (∃ e', findWrite t n = some e' ∧ e'.owed = takers.map (·.leg)) ∧
      (∀ m ∈ takers, WriteAtTail (t.leg m.leg) (queue m) n e m.leg) ∧ ∀ l, (∀ m ∈ takers, m.leg ≠ l) → t.leg l = s.leg l := by
  intro t takers
  have hentry : findWrite s n = some { e with owed := [] } := by rw [h, ← ho]
  have hlegs : (takers.map (·.leg)).Nodup := hn.sublist ((List.filter_sublist).map _)
  obtain ⟨hfind, htail, hrest⟩ := foldl_placeWrite hentry hlegs (by simp) hp
  have ht : t = ((s.win w).members.foldl (fun u m => addStale w m.leg g u)
      (takers.foldl (fun u m => placeWrite n m.leg (queue m) u) s)).raiseWork :=
    (issueWrite_eq n w g p s).trans (by simp only [← hq]; rfl)
  have hslots := SlotsOnly.foldl (fun u (m : Member) => addStale_slotsOnly u w m.leg g) (s.win w).members
    (takers.foldl (fun u m => placeWrite n m.leg (queue m) u) s)
  have hleg (l : LegIx) : t.leg l = (takers.foldl (fun u m => placeWrite n m.leg (queue m) u) s).leg l := by
    rw [ht, raiseWork_leg]
    exact hslots.leg l
  refine ⟨⟨_, by rw [ht]; exact (hslots.findWrite n).trans hfind, List.nil_append _⟩, fun m hm => ?_, fun l hl => ?_⟩
  · rw [hleg]
    exact htail m hm
  · rw [hleg]
    exact hrest l hl

theorem setQueue_direct_read {p : LegPort} {q : QueueName} {r x : LegRequest} {n : Nat} (hr : r.kind = .write)
    (hx : x ∈ ({ p.setQueue q (p.queue q ++ [r]) with nextAge := n } : LegPort).direct) (hk : x.kind = .read) : x ∈ p.direct := by
  cases q
  · rcases List.mem_append.mp hx with hx | hx
    · exact hx
    · rw [List.mem_singleton.mp hx, hr] at hk
      cases hk
  · exact hx
  · exact hx

/-- A placement with nothing to withdraw. -/
theorem readsCleared_of_none {s : State} {l : LegIx} {a n : Nat}
    (hd : ∀ x ∈ (s.leg l).direct, ¬ (x.kind = .read ∧ Share a n x.addr x.length))
    (hc : ∀ x ∈ (s.leg l).copy, ¬ (x.kind = .read ∧ Share a n x.addr x.length)) : readsCleared l a n s = s := by
  have cut (x : LegRequest) : x.readIn a n = true ↔ x.kind = .read ∧ Share a n x.addr x.length := by
    rw [LegRequest.readIn, Bool.and_eq_true, beq_iff_eq, overlaps_iff]
  have hreads : withdrawReads l a n s = s := withdrawReads_none fun x hx => by simpa using mt (cut x).mp (hd x hx)
  rw [readsCleared, hreads]
  exact withdrawChunks_none fun x hx hcut => absurd ((cut x).mp hcut) (hc x hx)

theorem cleared_direct_noShare {s : State} {l : LegIx} {a n : Nat} {x : LegRequest} (hx : x ∈ ((readsCleared l a n s).leg l).direct)
    (hk : x.kind = .read) : ¬ Share a n x.addr x.length := by
  rw [(readsCleared_cleared s l a n).direct] at hx
  have hcut := (List.mem_filter.mp hx).2
  rw [← overlaps_iff]
  simpa [LegRequest.readIn, hk] using hcut

/-- Settles O44: the lemmas on issue, placement, withdrawal and acceptance above, clause by clause. -/
theorem acceptedWritesAreTrackedAndPlaced : Obligations.AcceptedWritesAreTrackedAndPlaced := by
  refine ⟨fun s r w hn hr hh hw hp ht hm hl he hlost hk hs => ?request, fun s w r => ?accept, fun s w g => ?report, fun s n w g p => ?issue,
    fun s n l q e a h ha hc => ?place, fun a n b m => overlaps_iff, fun s l a n => ?withdraw, fun r c => chunkRead_iff,
    fun s r l hn hr hh hw hp ht hm hl hpass hu hk => ?passThrough⟩
  case request =>
    have hroute := route_enabled (s := headed r s) (r := r) hl he hlost
    have hstall : writeStall (headed r s) w (segmentOf ((headed r s).win w) r.addr.toNat) = none := hs
    refine (exec_request_idle r hn hr hh hw).trans (congrArg (fun u => Host.Outcome.next (react u)) ?_)
    rw [present_headed_route hp ht hm, hroute]
    simp only [hk, hstall, handOver, dueFor]
    rfl
  case accept =>
    intro g places e
    exact ⟨fun hc hfresh => acceptWrite_held hc hfresh, fun hc => acceptWrite_issued hc⟩
  case report =>
    refine ⟨copyingSegment_iff, reportOpen_other, fun j js hj hr hw hg => ?_, fun h => if_neg (by simp [h]), fun h => if_pos h,
      fun p => ⟨lagOverflow_none, fun hp h => ?_⟩⟩
    · have hcopy : copyingSegment s w g = true := copyingSegment_iff.mpr ⟨j, runningJob_of_head hj hr, hw, hg⟩
      rw [reportOpen, if_pos hcopy, modJob_running hj hr]
    · rw [hp, lagOverflow_eq h, needing_lagged_lag]
  case issue =>
    intro takers queue t
    refine ⟨issueWrite_eq n w g p s, fun e h ho hlegs hp => issueWrite_places g h ho hlegs (fun _ => rfl) hp⟩
  case place =>
    intro p req cleared
    have hplace := placeWrite_eq h ha hc
    refine ⟨fun hd hcopy => ?_, hplace, fun x hx hk => ?_, ⟨_, findWrite_placeWrite h ha hc, ?_⟩⟩
    · rw [hplace, readsCleared_of_none hd hcopy]
      rfl
    · rw [placeWrite_leg_self h ha hc] at hx
      exact cleared_direct_noShare (setQueue_direct_read rfl hx hk) hk
    · unfold legInsert
      split
      next hmem => simpa using hmem
      next => simp
  case withdraw =>
    intro cut p
    refine ⟨withdrawReads_none, withdrawReads_some, withdrawChunks_none, fun j js c hj hr => withdrawChunks_some hj hr⟩
  case passThrough =>
    intro held e
    have hpresent : present (headed r s) = routePass l r (headed r s) :=
      (present_headed_route hp ht hm).trans (route_pass (s := headed r s) hl hpass hu)
    have run {t : State} (e : routePass l r (headed r s) = t) : exec (.request r) s = .next (react t) :=
      (exec_request_idle r hn hr hh hw).trans (congrArg (fun u => Host.Outcome.next (react u)) (hpresent.trans e))
    have hdirect : canEnter (headed r s) l .direct = true ↔ (s.leg l).direct.length < 16 := by
      rw [canEnter_iff]
      exact ⟨fun h => h.2, fun h => ⟨hu, h⟩⟩
    refine ⟨fun hfull => run ?_, fun hroom hfull => run ?_, fun hroom hfree => run ?_⟩
    · have htracker : passWriteStall (headed r s) l = some .trackerFull := if_pos hfull
      simp only [routePass, hk, htracker]
      rfl
    · have hstall : passWriteStall (headed r s) l = some .directFull :=
        (if_neg (Nat.not_le.mpr hroom)).trans (if_pos (by simpa using mt hdirect.mp (Nat.not_lt.mpr hfull)))
      simp only [routePass, hk, hstall]
      rfl
    · have hstall : passWriteStall (headed r s) l = none :=
        (if_neg (Nat.not_le.mpr hroom)).trans (if_neg (by simpa using hdirect.mpr hfree))
      simp only [routePass, hk, hstall, handOver, dueFor]
      rfl

end Sys2Proof.Machine
end

section
/-! SUPPORT. The release from the hold queue (R56, R57). -/

namespace Sys2Proof.Machine

open Sys2Proof.Safety

/-! ## Placements leave the hold queue -/

theorem withdrawReads_hold (s : State) (l : LegIx) (a n : Nat) : (withdrawReads l a n s).hold = s.hold := by
  unfold withdrawReads
  dsimp only
  split
  · rfl
  · rw [foldl_withdrawRead]; rfl

theorem withdrawChunks_hold (s : State) (l : LegIx) (a n : Nat) : (withdrawChunks l a n s).hold = s.hold := by
  unfold withdrawChunks
  split
  · rfl
  · dsimp only
    unfold modJob
    split
    · split <;> rfl
    · rfl

theorem placeWrite_hold (s : State) (r : Nat) (l : LegIx) (q : QueueName) : (placeWrite r l q s).hold = s.hold := by
  rcases he : findWrite s r with _ | e
  · simp only [placeWrite, he]
  · rcases ha : addrOn e.legAddrs l with _ | a
    · simp only [placeWrite, he, ha]
    · by_cases hc : canEnter s l q = true
      · rw [placeWrite_eq he ha hc]
        exact (withdrawChunks_hold _ _ _ _).trans (withdrawReads_hold _ _ _ _)
      · simp only [placeWrite, he, ha, hc, Bool.false_eq_true, if_false]

theorem issueWrite_hold (s : State) (r : Nat) (w : WinIx) (g : Nat) (p : WritePolicy) : (issueWrite r w g p s).hold = s.hold := by
  have hplace (ms : List Member) (f : Member → QueueName) (u : State) :
      (ms.foldl (fun u m => placeWrite r m.leg (f m) u) u).hold = u.hold := by
    induction ms generalizing u with
    | nil => rfl
    | cons m ms ih => exact (ih _).trans (placeWrite_hold _ _ _ _)
  exact (SlotsOnly.foldl (fun u (m : Member) => addStale_slotsOnly u w m.leg g) _ _).hold.trans (hplace _ _ s)

/-! ## The write whose release is taken -/

theorem nextReleased_eq_none {s : State} :
    nextReleased s = none ↔ ∀ n ∈ s.hold, ¬ ∃ e, findWrite s n = some e ∧ e.held = .released := by
  rw [nextReleased, List.find?_eq_none]
  refine forall_congr' fun n => forall_congr' fun _ => ?_
  rw [Option.any_eq_true]
  simp

theorem nextReleased_eq_some {s : State} {n : Nat} (h : nextReleased s = some n) :
    ∃ before after, s.hold = before ++ n :: after ∧ (∃ e, findWrite s n = some e ∧ e.held = .released) ∧
      ∀ k ∈ before, ¬ ∃ e, findWrite s k = some e ∧ e.held = .released := by
  have hreleased (k : Nat) : (findWrite s k).any (fun e => e.held == .released) = true ↔ ∃ e, findWrite s k = some e ∧ e.held = .released := by
    rw [Option.any_eq_true]
    simp
  obtain ⟨hn, before, after, hsplit, hbefore⟩ := first_of_find h
  exact ⟨before, after, hsplit, (hreleased n).mp hn, fun k hk => mt (hreleased k).mpr (hbefore k hk)⟩

theorem resumeRelease_none {s : State} (h : nextReleased s = none) : resumeRelease s = s := if_neg (by simp [h])

theorem resumeRelease_some {s : State} {n : Nat} (h : nextReleased s = some n) :
    resumeRelease s = (releaseLoop (2 * s.hold.length) s).raiseHead := if_pos (by simp [h])

theorem releaseLoop_none {s : State} (h : nextReleased s = none) (k : Nat) : releaseLoop k s = s := by
  cases k with
  | zero => rfl
  | succ k => simp only [releaseLoop, h]

theorem releaseLoop_some {s : State} {n : Nat} (h : nextReleased s = some n) (k : Nat) :
    releaseLoop (k + 1) s = if (releaseOne n s).goOn then releaseLoop k (releaseOne n s).state else (releaseOne n s).state := by
  simp only [releaseLoop, h]

/-! ## One released write -/

/-- The write leaves the hold queue at the addresses of the list as it stands (R56 step 4, R57). -/
def unheldAt (n : Nat) (x : Window) (s : State) : State :=
  { s with
    hold := s.hold.filter fun k => k != n
    writes := s.writes.map fun e => if e.ref == n
      then { e with held := .no, legAddrs := x.members.map fun m => (m.leg, m.base + (e.addr - x.base)) } else e
    notice := { s.notice with work := true, head := true } }

theorem unhold_refreshAddrs (n : Nat) (x : Window) (s : State) : unhold n (refreshAddrs n x s) = unheldAt n x s := by
  simp only [unhold, refreshAddrs, modWrite, State.raiseHead, List.map_map, unheldAt]
  congr 2
  funext e
  by_cases h : e.ref = n <;> simp [h, translations]

section
variable {s : State} {n : Nat} {e : WriteEntry} {w : WinIx} {g : Nat} {p : WritePolicy}

theorem releaseOne_closed (h : findWrite s n = some e) (hw : e.window = some w) (hg : e.segment = some g) (hp : e.policy = some p)
    (hc : closedFor s w g = true) : releaseOne n s = ⟨modWrite n (fun e => { e with held := .held }) s, true⟩ := by
  simp only [releaseOne, h, hw, hg, hp, hc, if_true]

theorem releaseOne_lost (h : findWrite s n = some e) (hw : e.window = some w) (hg : e.segment = some g) (hp : e.policy = some p)
    (hc : closedFor s w g = false) (hl : leadOf (s.win w) = none) : releaseOne n s = ⟨decideEmptied n (unhold n s), true⟩ := by
  simp only [releaseOne, h, hw, hg, hp, hc, hl, Option.isNone_none, Bool.false_eq_true, if_false, if_true]

/-- The report of an open pass and the overflow demotions come before the pause (log entry 17). -/
theorem releaseOne_led (h : findWrite s n = some e) (hw : e.window = some w) (hg : e.segment = some g) (hp : e.policy = some p)
    (hc : closedFor s w g = false) (hl : (leadOf (s.win w)).isSome = true) :
    let reported := lagOverflow w p (reportOpen w g s)
    releaseOne n s = if (queueStall reported (reported.win w) p).isSome then ⟨reported, false⟩
      else ⟨issueWrite n w g p (unheldAt n (reported.win w) reported), true⟩ := by
  have hlead : (leadOf (s.win w)).isNone = false := by simpa [Option.isNone_iff_eq_none, Option.isSome_iff_ne_none] using hl
  intro reported
  simp only [releaseOne, h, hw, hg, hp, hc, hlead, Bool.false_eq_true, if_false, unhold_refreshAddrs]
  rfl

/-- A released write of a window without lead is answered FAULT and retires. -/
theorem decideEmptied_unhold (h : findWrite s n = some e) (hp : e.policy = some p) (hw : e.window = some w) (ho : e.owed = [])
    (hk : e.acked = []) (ha : e.answered = false) : decideEmptied n (unhold n s) = { s with
      hold := s.hold.filter fun k => k != n
      writes := s.writes.filter fun x => x.ref != n
      link := { s.link with answers := s.link.answers ++ [.write e.tag .fault] }
      notice := Notice.full } := by
  have hf : findWrite (unhold n s) n = some { e with held := .no } :=
    findWrite_modWrite (f := fun e => { e with held := .no }) (by intro e; rfl) h
  have hfault : emptiedAnswer (unhold n s) { e with held := .no } = .fault := by
    cases p <;> simp [emptiedAnswer, hp, ackedByCurrent, hw, hk]
  rw [decideEmptied_emptied hf ho rfl, if_neg (by simp [ha]), hfault]
  simp only [retiredWith, unhold, modWrite, State.raiseHead]
  rw [filter_modWrite_ref _ (fun e => { e with held := .no }) (by intro e; rfl)]

end

/-- Settles O47: `releaseOne` case by case, and the loop. -/
theorem releasedWritesLeaveTheHoldQueue : Obligations.ReleasedWritesLeaveTheHoldQueue := by
  refine ⟨fun s => rfl, fun s => ?loop, fun s n e w g p h hw hg hp => ?one, fun s n e w g hh h hw hg hp hrel hc hcopy hl => ?single⟩
  case loop =>
    intro released
    refine ⟨fun h => ?_, fun h => ?_, fun k => ⟨fun h => releaseLoop_none h _, fun n h => ⟨fun hgo => ?_, fun hgo => ?_⟩⟩⟩
    · have hnone := nextReleased_eq_none.mpr h
      exact ⟨hnone, resumeRelease_none hnone⟩
    · obtain ⟨n, hn⟩ := Option.ne_none_iff_exists'.mp (mt nextReleased_eq_none.mp (by simpa using h))
      obtain ⟨before, after, hsplit, hrel, hbefore⟩ := nextReleased_eq_some hn
      exact ⟨⟨before, n, after, hsplit, hrel, hbefore, hn⟩, resumeRelease_some hn⟩
    · rw [releaseLoop_some h, if_pos hgo]
    · rw [releaseLoop_some h, if_neg (by simp [hgo])]
  case one =>
    intro reported unheld
    refine ⟨fun hc => ?_, fun hc hl ho hk ha => ?_, fun hc hl => ⟨fun hs => ?_, fun hs => ?_⟩⟩
    · rw [releaseOne_closed h hw hg hp hc]
      exact ⟨rfl, rfl⟩
    · rw [releaseOne_lost h hw hg hp hc hl, decideEmptied_unhold h hp hw ho hk ha]
      exact ⟨rfl, rfl⟩
    · rw [releaseOne_led h hw hg hp hc hl, if_pos hs]
      exact ⟨rfl, rfl⟩
    · rw [releaseOne_led h hw hg hp hc hl, if_neg (by rw [hs]; decide)]
      exact ⟨rfl, rfl⟩
  case single =>
    have hnext : nextReleased s = some n := by simp [nextReleased, hh, h, hrel]
    have hreported : lagOverflow w .sync (reportOpen w g s) = s := by
      rw [reportOpen_other hcopy, lagOverflow_none (.inl rfl)]
    have hone := releaseOne_led h hw hg hp hc hl
    rw [hreported] at hone
    dsimp only at hone
    have hresume : resumeRelease s = (releaseLoop 2 s).raiseHead := by rw [resumeRelease_some hnext, hh]; rfl
    refine ⟨fun hs => reacts (c := .releaseResume) rfl ?_, fun hs => reacts (c := .releaseResume) rfl ?_⟩
    · rw [hresume, releaseLoop_some hnext, hone, if_pos hs]
      rfl
    · have hempty : (issueWrite n w g .sync (unheldAt n (s.win w) s)).hold = [] := by
        rw [issueWrite_hold, unheldAt, hh]
        simp
      have hdone : nextReleased (issueWrite n w g .sync (unheldAt n (s.win w) s)) = none := by
        rw [nextReleased, hempty]
        rfl
      have hissued : releaseOne n s = ⟨issueWrite n w g .sync (unheldAt n (s.win w) s), true⟩ := hone.trans (if_neg (by simp [hs]))
      rw [hresume, releaseLoop_some hnext, hissued, if_pos rfl, releaseLoop_none hdone]
      have hunheld : unheldAt n (s.win w) s = { s with
          hold := []
          writes := s.writes.map fun x => if x.ref == n then { x with
            held := .no, legAddrs := (s.win w).members.map fun m => (m.leg, m.base + (x.addr - (s.win w).base)) } else x
          notice := { s.notice with work := true, head := true } } := by
        simp [unheldAt, hh]
      rw [hunheld]

end Sys2Proof.Machine
end

section
/-! SUPPORT. Slots and the running job: what a change of one slot makes of window health and lead, and the job's small operations
(R20, R21, R108, R110). -/

namespace Sys2Proof.Machine

open Sys2Proof.Safety

/-! ## A change of one slot -/

/-- A window with one slot changed. -/
def Window.withSlot (x : Window) (l : LegIx) (f : Member → Member) : Window :=
  { x with members := x.members.map fun m => if m.leg = l then f m else m }

theorem modMember_withSlot (w : WinIx) (l : LegIx) (f : Member → Member) (s : State) :
    modMember w l f s = s.setWin w ((s.win w).withSlot l f) := modMember_eq w l f s

theorem withSlot_withSlot (x : Window) (l : LegIx) {f g : Member → Member} (hf : ∀ m, (f m).leg = m.leg) :
    (x.withSlot l f).withSlot l g = x.withSlot l (g ∘ f) := by
  simp only [Window.withSlot, List.map_map]
  congr 2
  funext m
  by_cases h : m.leg = l <;> simp [h, hf]

theorem withSlot_legs (x : Window) (l : LegIx) {f : Member → Member} (hf : ∀ m, (f m).leg = m.leg) :
    (x.withSlot l f).members.map (·.leg) = x.members.map (·.leg) := by
  simp only [Window.withSlot, List.map_map]
  refine List.map_congr_left fun m _ => ?_
  by_cases h : m.leg = l <;> simp [h, hf]

theorem find_withSlot (x : Window) (l k : LegIx) {f : Member → Member} (hf : ∀ m, (f m).leg = m.leg) :
    (x.withSlot l f).members.find? (fun m => m.leg == k) =
      if k = l then (x.members.find? fun m => m.leg == k).map f else x.members.find? fun m => m.leg == k := by
  have hfind := find_mapMember (ms := x.members) (l := l) (k := k) hf
  simp only [beq_iff_eq] at hfind
  rw [Window.withSlot, hfind]
  generalize hm : x.members.find? (fun m => m.leg == k) = found
  cases found with
  | none => simp
  | some m =>
    have hleg : m.leg = k := by simpa using List.find?_some hm
    by_cases h : k = l <;> simp [hleg, h]

theorem memberOf_setWin_self (s : State) (w : WinIx) (x : Window) (k : LegIx) :
    memberOf (s.setWin w x) w k = x.members.find? fun m => m.leg == k := by
  rw [memberOf, setWin_win_self]

theorem memberOf_withSlot {s : State} {w : WinIx} {l : LegIx} {m : Member} {f : Member → Member} (hf : ∀ m, (f m).leg = m.leg)
    (h : memberOf s w l = some m) : memberOf (s.setWin w ((s.win w).withSlot l f)) w l = some (f m) := by
  rw [memberOf_setWin_self, find_withSlot _ _ _ hf, if_pos rfl, show (s.win w).members.find? (fun m => m.leg == l) = some m from h]
  rfl

/-- A change between states that are not CURRENT changes neither the CURRENT slots nor the lead. -/
theorem filter_current_withSlot {x : Window} {l : LegIx} {f : Member → Member}
    (h : ∀ m ∈ x.members, m.leg = l → m.state ≠ some .current ∧ (f m).state ≠ some .current) :
    (x.withSlot l f).members.filter (fun m => m.state == some .current) = x.members.filter fun m => m.state == some .current := by
  unfold Window.withSlot
  dsimp only
  generalize x.members = ms at h
  induction ms with
  | nil => rfl
  | cons m ms ih =>
    obtain ⟨hm, hms⟩ := List.forall_mem_cons.mp h
    by_cases hl : m.leg = l
    · obtain ⟨h1, h2⟩ := hm hl
      rw [List.map_cons, if_pos hl, List.filter_cons_of_neg (by simpa using h2), List.filter_cons_of_neg (by simpa using h1), ih hms]
    · rw [List.map_cons, if_neg hl, List.filter_cons, List.filter_cons, ih hms]

theorem leadOf_congr {x y : Window} (hs : y.state = x.state)
    (h : y.members.filter (fun m => m.state == some .current) = x.members.filter fun m => m.state == some .current) :
    leadOf y = leadOf x := by
  rw [leadOf, leadOf, hs, ← List.head?_filter, ← List.head?_filter, h]

theorem healthOf_congr {x y : Window} (hs : y.state = x.state)
    (h : y.members.filter (fun m => m.state == some .current) = x.members.filter fun m => m.state == some .current) :
    healthOf y = healthOf x := by
  rw [healthOf, healthOf, hs, currentCount, currentCount, h]

/-- A window with a lead is not LOST. -/
theorem isLost_of_lead {x : Window} {k : Member} (h : leadOf x = some k) : isLost x = false := by
  rw [← Bool.not_eq_true, isLost_iff]
  rintro ⟨-, hno⟩
  unfold leadOf at h
  split at h
  · cases h
  · exact hno k (List.mem_of_find?_eq_some h) (by simpa using List.find?_some h)

theorem leadOf_current {x : Window} {k : Member} (h : leadOf x = some k) : k ∈ x.members ∧ k.state = some .current ∧ x.state ≠ .disabled := by
  unfold leadOf at h
  split at h
  · cases h
  next hs => exact ⟨List.mem_of_find?_eq_some h, by simpa using List.find?_some h, by simpa using hs⟩

/-! ## The running job -/

theorem runningJob_iff {s : State} {j : Job} : runningJob s = some j ↔ j.running = true ∧ ∃ js, s.jobs = j :: js := by
  constructor
  · intro h
    obtain ⟨js, hj, hr⟩ := runningJob_head h
    exact ⟨hr, js, hj⟩
  · rintro ⟨hr, js, hj⟩
    exact runningJob_of_head hj hr

section
variable {s : State} {j : Job} {js : List Job}

theorem takeSource_eq (h : s.jobs = j :: js) (hr : j.running = true) : takeSource s = { s with
    jobs := { j with source := (leadOf (s.win j.window)).bind fun k => if (s.leg k.leg).state = .up then some k.leg else none } :: js
    notice := { s.notice with work := true } } := by
  simp only [takeSource, runningJob_of_head h hr, modJob_running h hr]
  rcases leadOf (s.win j.window) with _ | k
  · rfl
  · by_cases hu : (s.leg k.leg).state = .up
    · simp only [isUp_iff.mpr hu, Option.bind_some, hu, if_true]
      rfl
    · simp only [Bool.eq_false_iff.mpr (mt isUp_iff.mp hu), Option.bind_some, hu, Bool.false_eq_true, if_false]
      rfl

theorem takeSource_lead (h : s.jobs = j :: js) (hr : j.running = true) {k : Member} (hk : leadOf (s.win j.window) = some k) :
    takeSource s = { s with
      jobs := { j with source := if (s.leg k.leg).state = .up then some k.leg else none } :: js
      notice := { s.notice with work := true } } := by
  rw [takeSource_eq h hr, hk]
  rfl

theorem endIfLost_of_running (h : runningJob s = some j) : endIfLost j.window s =
    if isLost (s.win j.window) then demoteOne resumeRelease j.window j.target .rebuildAborted .noSource true s else s := by
  simp only [endIfLost, lostTarget, h, beq_self_eq_true, Bool.true_and]

theorem endIfLost_led (h : runningJob s = some j) {k : Member} (hk : leadOf (s.win j.window) = some k) : endIfLost j.window s = s := by
  rw [endIfLost_of_running h, isLost_of_lead hk]
  rfl

/-- A segment start in a window with a lead (R110). -/
theorem segmentStart_eq (h : s.jobs = j :: js) (hr : j.running = true) {k : Member} (hk : leadOf (s.win j.window) = some k) :
    segmentStart s = { s with
      jobs := { j with
        segment := nextSegment s j, pass := some 1, overtaken := false, nextChunk := 0, chunksWritten := 0
        source := if (s.leg k.leg).state = .up then some k.leg else none } :: js
      notice := { s.notice with work := true } } := by
  simp only [segmentStart, runningJob_of_head h hr, modJob_running h hr, takeSourceOrEnd]
  rw [takeSource_lead (s := { s with jobs :=
      { j with segment := nextSegment s j, pass := some 1, overtaken := false, nextChunk := 0, chunksWritten := 0 } :: js })
    rfl hr hk]
  refine endIfLost_led (j := { j with
    segment := nextSegment s j, pass := some 1, overtaken := false, nextChunk := 0, chunksWritten := 0
    source := if (s.leg k.leg).state = .up then some k.leg else none }) ?_ hk
  exact runningJob_of_head rfl hr

end

end Sys2Proof.Machine
end

section
/-! SUPPORT. Start attempts of the head job (R105 to R107). -/

namespace Sys2Proof.Machine

open Sys2Proof.Safety

/-! ## The attempt -/

theorem startHeads_rests {s : State} (h : s.jobs = [] ∨ (runningJob s).isSome = true ∨ s.port.progress ≠ .none) (n : Nat) :
    startHeads n s = s := by
  cases n with
  | zero => rfl
  | succ n =>
    unfold startHeads
    rcases hj : s.jobs with _ | ⟨j, js⟩
    · rfl
    · refine if_pos ?_
      rw [Bool.or_eq_true, inReset_eq_true]
      rcases h with h | h | h
      · rw [hj] at h
        cases h
      · obtain ⟨k, hk⟩ := Option.isSome_iff_exists.mp h
        obtain ⟨hr, ks, hks⟩ := runningJob_iff.mp hk
        rw [hj, List.cons.injEq] at hks
        exact Or.inl (hks.1 ▸ hr)
      · exact Or.inr h

section
variable {s : State} {j : Job} {js : List Job} (h : s.jobs = j :: js) (hr : j.running = false) (hp : s.port.progress = .none)
include h hr hp

theorem startHeads_removes {c : JobCause} (hc : startCheck s j = some c) (n : Nat) : startHeads (n + 1) s =
    startHeads n { s with jobs := js, events := s.events.offer (.jobEnded j.window j.target c j.number) } := by
  conv => lhs; unfold startHeads
  simp only [h, hr, inReset_eq_false.mpr hp, hc, Bool.or_self, Bool.false_eq_true, if_false]
  rfl

theorem startHeads_starts (hc : startCheck s j = none) (n : Nat) : startHeads (n + 1) s = startHeads n (startJob j s) := by
  conv => lhs; unfold startHeads
  simp only [h, hr, inReset_eq_false.mpr hp, hc, Bool.or_self, Bool.false_eq_true, if_false]

end

theorem startAttempt_of_jobs {s : State} {j : Job} {js : List Job} (h : s.jobs = j :: js) : startAttempt s = startHeads (js.length + 1) s := by
  rw [startAttempt, h]
  rfl

/-! ## The start checks (R106) -/

theorem startCheck_up {s : State} {j : Job} (hu : (s.leg j.target).state = .up) : startCheck s j =
    match memberOf s j.window j.target with
    | some m =>
      if m.state != some .stale then some .state
      else if (leadOf (s.win j.window)).isNone then some .noSource
      else if !fitsLeg (s.leg j.target) m.base (s.win j.window).size then some .capacity
      else none
    | none => some .state := by
  rw [startCheck, isUp_iff.mpr hu]
  rfl

theorem startCheck_checks (s : State) (j : Job) :
    ((s.leg j.target).state ≠ .up → startCheck s j = some .targetDown) ∧
    ((s.leg j.target).state = .up → slotState s j.window j.target ≠ some .stale → startCheck s j = some .state) ∧
    ((s.leg j.target).state = .up → ∀ m, memberOf s j.window j.target = some m → m.state = some .stale →
      (leadOf (s.win j.window) = none → startCheck s j = some .noSource) ∧
      ((leadOf (s.win j.window)).isSome = true → ¬ Fits s j.target m.base (s.win j.window).size →
        startCheck s j = some .capacity) ∧
      ((leadOf (s.win j.window)).isSome = true → Fits s j.target m.base (s.win j.window).size → startCheck s j = none)) := by
  refine ⟨fun hu => ?_, fun hu hs => ?_, fun hu m hm hst => ⟨fun hl => ?_, fun hl hf => ?_, fun hl hf => ?_⟩⟩
  · rw [startCheck, Bool.eq_false_iff.mpr (mt isUp_iff.mp hu)]
    rfl
  · rw [startCheck_up hu]
    rcases hm : memberOf s j.window j.target with _ | m
    · rfl
    · have hst : m.state ≠ some .stale := by simpa only [slotState, hm, Option.bind_some] using hs
      exact if_pos (bne_iff_ne.mpr hst)
  all_goals rw [startCheck_up hu, hm]
  all_goals simp only [hst, bne_self_eq_false, Bool.false_eq_true, if_false]
  · simp only [hl, Option.isNone_none, if_true]
  · rw [if_neg (by simpa [Option.isSome_iff_ne_none] using hl), fitsLeg_eq_false.mpr hf]
    rfl
  · rw [if_neg (by simpa [Option.isSome_iff_ne_none] using hl), fitsLeg_iff.mpr hf]
    rfl

/-! ## The start (R107) -/

/-- The state in which the head job has started and its segments have not: its slot changed by `f`, JOB_STARTED offered. -/
def begun (s : State) (j : Job) (js : List Job) (mode : JobMode) (total : Nat) (f : Member → Member) (store : List StaleEntry) : State :=
  { s.setWin j.window ((s.win j.window).withSlot j.target f) with
    store := store
    events := s.events.offer (.jobStarted j.window j.target mode j.number)
    jobs := j.started mode total :: js
    notice := Notice.full }

section
variable {s : State} {j : Job} {js : List Job}

theorem resolveMode_full (h : j.mode = .full ∨ isWhole s j.window j.target = true) :
    resolveMode j.mode (isWhole s j.window j.target) = .full := by
  refine if_pos ?_
  rwa [Bool.or_eq_true, beq_iff_eq]

theorem resolveMode_stale (h : j.mode ≠ .full) (hw : isWhole s j.window j.target = false) :
    resolveMode j.mode (isWhole s j.window j.target) = .stale := by
  refine if_neg ?_
  rw [hw, Bool.or_false, beq_iff_eq]
  exact h

theorem startJob_full (h : s.jobs = j :: js) (hm : j.mode = .full ∨ isWhole s j.window j.target = true) :
    startJob j s = segmentStart (begun s j js .full (s.win j.window).size (fun m => { m with state := some .rebuilding, whole := true })
      (s.store.filter fun e => !(e.window == j.window && e.leg == j.target))) := by
  unfold startJob
  rw [resolveMode_full hm]
  have htail : s.jobs.tail = js := by rw [h]; rfl
  have hbegun : post (.jobStarted j.window j.target .full j.number)
      { (modMember j.window j.target (fun m => { m with state := some .rebuilding }) (makeWhole j.window j.target s)).raise with
        jobs := j.started .full (s.win j.window).size :: s.jobs.tail } =
      begun s j js .full (s.win j.window).size (fun m => { m with state := some .rebuilding, whole := true })
        (s.store.filter fun e => !(e.window == j.window && e.leg == j.target)) := by
    rw [makeWhole, modMember_withSlot, modMember_withSlot, freeSlot_win, setWin_win_self, withSlot_withSlot, begun, ← htail]
    · simp only [State.raise, post, freeSlot, State.setWin, Vector.set_set]
      rfl
    · exact fun _ => rfl
  rw [← hbegun]
  rfl

theorem startJob_stale (h : s.jobs = j :: js) (hm : j.mode ≠ .full) (hw : isWhole s j.window j.target = false) :
    startJob j s = (if (staleList s j.window j.target).length = 0 then completeJob else segmentStart)
      (begun s j js .stale (staleList s j.window j.target).length (fun m => { m with state := some .rebuilding }) s.store) := by
  unfold startJob
  rw [resolveMode_stale hm hw]
  have htail : s.jobs.tail = js := by rw [h]; rfl
  have hbegun : post (.jobStarted j.window j.target .stale j.number)
      { (modMember j.window j.target (fun m => { m with state := some .rebuilding }) s).raise with
        jobs := j.started .stale (staleList s j.window j.target).length ::
          (modMember j.window j.target (fun m => { m with state := some .rebuilding }) s).raise.jobs.tail } =
      begun s j js .stale (staleList s j.window j.target).length (fun m => { m with state := some .rebuilding }) s.store := by
    rw [modMember_withSlot, begun, ← htail]
    rfl
  by_cases hl : (staleList s j.window j.target).length = 0
  · rw [if_pos hl, ← hbegun, hl]
    rfl
  · rw [if_neg hl, ← hbegun]
    exact if_neg (by rw [Bool.and_eq_true, beq_iff_eq, beq_iff_eq]; exact fun hz => hl hz.2)

/-! ## What a started job finds -/

variable {mode : JobMode} {total : Nat} {f : Member → Member} {store : List StaleEntry}

theorem begun_win : (begun s j js mode total f store).win j.window = (s.win j.window).withSlot j.target f := setWin_win_self s _ _

/-- The head's slot is STALE, and so is every member on its leg. -/
theorem slot_stale_of_check (hc : startCheck s j = none) (hn : ((s.win j.window).members.map (·.leg)).Nodup) :
    ∀ m ∈ (s.win j.window).members, m.leg = j.target → m.state = some .stale := by
  have hslot := startCheck_slot hc
  intro m hm hl
  rw [← hslot, ← hl]
  exact (slotState_of_mem hn hm).symm

theorem begun_current (hc : startCheck s j = none) (hn : ((s.win j.window).members.map (·.leg)).Nodup)
    (hf : ∀ m, (f m).state = some .rebuilding) :
    ((begun s j js mode total f store).win j.window).members.filter (fun m => m.state == some .current) =
      (s.win j.window).members.filter fun m => m.state == some .current := by
  rw [begun_win]
  refine filter_current_withSlot fun m hm hl => ⟨?_, ?_⟩
  · rw [slot_stale_of_check hc hn m hm hl]
    decide
  · rw [hf]
    decide

theorem begun_lead (hc : startCheck s j = none) (hn : ((s.win j.window).members.map (·.leg)).Nodup)
    (hf : ∀ m, (f m).state = some .rebuilding) :
    leadOf ((begun s j js mode total f store).win j.window) = leadOf (s.win j.window) :=
  leadOf_congr (by rw [begun_win]; rfl) (begun_current hc hn hf)

/-- A job begun in a window with a lead takes its first segment from the lead's leg. -/
theorem segmentStart_begun (hc : startCheck s j = none) (hn : ((s.win j.window).members.map (·.leg)).Nodup)
    (hf : ∀ m, (f m).state = some .rebuilding) {k : Member} (hk : leadOf (s.win j.window) = some k) :
    segmentStart (begun s j js mode total f store) = { begun s j js mode total f store with
      jobs := { j.started mode total with
        segment := nextSegment (begun s j js mode total f store) (j.started mode total)
        pass := some 1, overtaken := false, nextChunk := 0, chunksWritten := 0
        source := if (s.leg k.leg).state = .up then some k.leg else none } :: js } :=
  segmentStart_eq (s := begun s j js mode total f store) (j := j.started mode total) rfl rfl ((begun_lead hc hn hf).trans hk)

end

end Sys2Proof.Machine
end

section
/-! SUPPORT. Completion of the running job (R118, R36), and the obligation on starts. -/

namespace Sys2Proof.Machine

open Sys2Proof.Safety

section
variable {s : State} {j : Job} {js : List Job}

/-- A completed job's state before the health record. -/
def completed (s : State) (j : Job) (js : List Job) (x : Window) : State :=
  { s.setWin j.window x with
    store := s.store.filter fun e => !(e.window == j.window && e.leg == j.target)
    events := (s.events.offer (.jobDone j.window j.target j.number)).offer
      (.memberChange j.window j.target .rebuilt (some .current))
    jobs := js
    notice := Notice.full }

theorem completeJob_eq (h : s.jobs = j :: js) (hr : j.running = true) (hs : slotState s j.window j.target = some .rebuilding) :
    let rebuilt := (s.win j.window).withSlot j.target fun m => { m with
      state := some .current, whole := false, serial := (s.leg j.target).identity.map (·.serial) }
    completeJob s = postChange j.window (healthOf (s.win j.window)) (healthOf rebuilt) (completed s j js rebuilt) := by
  intro rebuilt
  have hcurrent : makeCurrent j.window j.target s = { s.setWin j.window rebuilt with
      store := s.store.filter fun e => !(e.window == j.window && e.leg == j.target), notice := Notice.full } := by
    rw [makeCurrent, modMember_withSlot]
    rfl
  have hwin : (completed s j js rebuilt).win j.window = rebuilt := setWin_win_self s _ _
  have hdone : post (.memberChange j.window j.target .rebuilt (some .current)) (post (.jobDone j.window j.target j.number)
      { makeCurrent j.window j.target s with jobs := (makeCurrent j.window j.target s).jobs.tail }) = completed s j js rebuilt := by
    rw [hcurrent, completed]
    simp only [post, State.setWin, h, List.tail_cons]
  simp only [completeJob, runningJob_of_head h hr, hs, beq_self_eq_true, if_true]
  rw [postHealth, hdone, hwin]

end

/-! ## The obligation on starts -/

section
variable {s : State} {j : Job} {js : List Job} {mode : JobMode} {total : Nat} {f : Member → Member} {store : List StaleEntry}

theorem begun_member {m : Member} (hf : ∀ m, (f m).leg = m.leg) (h : memberOf s j.window j.target = some m) :
    memberOf (begun s j js mode total f store) j.window j.target = some (f m) := memberOf_withSlot (s := s) hf h

theorem staleList_filter (s : State) (w : WinIx) (l : LegIx) :
    ((s.store.filter fun e => !(e.window == w && e.leg == l)).filter fun e => e.window == w && e.leg == l) = [] := by
  rw [List.filter_filter, List.filter_eq_nil_iff]
  intro e _
  cases e.window == w && e.leg == l <;> decide

theorem filter_of_staleList_nil {w : WinIx} {l : LegIx} (h : staleList s w l = []) :
    (s.store.filter fun e => !(e.window == w && e.leg == l)) = s.store := by
  rw [List.filter_eq_self]
  rw [staleList, List.map_eq_nil_iff, List.filter_eq_nil_iff] at h
  exact fun e he => by rw [Bool.not_eq_true']; exact Bool.eq_false_iff.mpr (h e he)

theorem fullJob_starts (h : s.jobs = j :: js) (hc : startCheck s j = none) (hn : ((s.win j.window).members.map (·.leg)).Nodup)
    (hm : j.mode = .full ∨ isWhole s j.window j.target = true) {k : Member} (hk : leadOf (s.win j.window) = some k) :
    slotState (startJob j s) j.window j.target = some .rebuilding ∧ isWhole (startJob j s) j.window j.target = true ∧
    staleList (startJob j s) j.window j.target = [] ∧
    (startJob j s).events = s.events.offer (.jobStarted j.window j.target .full j.number) ∧
    (startJob j s).jobs = { j with
      mode := .full, running := true, source := (if (s.leg k.leg).state = .up then some k.leg else none)
      segment := some 0, pass := some 1, overtaken := false, nextChunk := 0, chunksWritten := 0, segmentsDone := 0
      segmentsTotal := some (s.win j.window).size } :: js := by
  rw [startJob_full h hm, segmentStart_begun hc hn (fun _ => rfl) hk]
  obtain ⟨m, hmem, -⟩ := Option.bind_eq_some_iff.mp (startCheck_slot hc)
  have hslot : memberOf (begun s j js .full (s.win j.window).size (fun m => { m with state := some .rebuilding, whole := true })
      (s.store.filter fun e => !(e.window == j.window && e.leg == j.target))) j.window j.target =
      some { m with state := some .rebuilding, whole := true } := begun_member (fun _ => rfl) hmem
  refine ⟨?_, ?_, ?_, rfl, rfl⟩
  · exact congrArg (fun o => o.bind Member.state) hslot
  · exact congrArg (fun o => o.any Member.whole) hslot
  · exact congrArg (List.map StaleEntry.segment) (staleList_filter s _ _)

theorem staleJob_starts (h : s.jobs = j :: js) (hc : startCheck s j = none) (hn : ((s.win j.window).members.map (·.leg)).Nodup)
    (hm : j.mode ≠ .full) (hw : isWhole s j.window j.target = false) {k : Member} (hk : leadOf (s.win j.window) = some k)
    {g : Nat} {gs : List Nat} (hg : staleList s j.window j.target = g :: gs) :
    startJob j s =
      { s.setWin j.window ((s.win j.window).withSlot j.target fun m => { m with state := some .rebuilding }) with
        events := s.events.offer (.jobStarted j.window j.target .stale j.number)
        jobs := { j with
          mode := .stale, running := true, source := (if (s.leg k.leg).state = .up then some k.leg else none)
          segment := some g, pass := some 1, overtaken := false, nextChunk := 0, chunksWritten := 0, segmentsDone := 0
          segmentsTotal := some (gs.length + 1) } :: js
        notice := Notice.full } := by
  have hnext : nextSegment (begun s j js .stale (gs.length + 1) (fun m => { m with state := some .rebuilding }) s.store)
      (j.started .stale (gs.length + 1)) = some g := congrArg List.head? hg
  rw [startJob_stale h hm hw, hg, List.length_cons, if_neg (Nat.succ_ne_zero _), segmentStart_begun hc hn (fun _ => rfl) hk, hnext]
  rfl

theorem staleJob_completes (h : s.jobs = j :: js) (hc : startCheck s j = none) (hn : ((s.win j.window).members.map (·.leg)).Nodup)
    (hm : j.mode ≠ .full) (hw : isWhole s j.window j.target = false) (hg : staleList s j.window j.target = []) :
    let rebuilt := (s.win j.window).withSlot j.target fun m => { m with
      state := some .current, whole := false, serial := (s.leg j.target).identity.map (·.serial) }
    startJob j s = postChange j.window (healthOf (s.win j.window)) (healthOf rebuilt)
      { s.setWin j.window rebuilt with
        events := ((s.events.offer (.jobStarted j.window j.target .stale j.number)).offer
          (.jobDone j.window j.target j.number)).offer (.memberChange j.window j.target .rebuilt (some .current))
        jobs := js
        notice := Notice.full } := by
  intro rebuilt
  obtain ⟨m, hmem, -⟩ := Option.bind_eq_some_iff.mp (startCheck_slot hc)
  have hslot : slotState (begun s j js .stale 0 (fun m => { m with state := some .rebuilding }) s.store) j.window j.target =
      some .rebuilding := congrArg (fun o => o.bind Member.state)
      (begun_member (f := fun m => { m with state := some .rebuilding }) (fun _ => rfl) hmem)
  have hhealth : healthOf ((begun s j js .stale 0 (fun m => { m with state := some .rebuilding }) s.store).win j.window) =
      healthOf (s.win j.window) := healthOf_congr (by rw [begun_win]; rfl) (begun_current hc hn fun _ => rfl)
  rw [startJob_stale h hm hw, hg, List.length_nil, if_pos rfl]
  refine (completeJob_eq (s := begun s j js .stale 0 (fun m => { m with state := some .rebuilding }) s.store)
    (j := j.started .stale 0) rfl rfl hslot).trans ?_
  have hwin : ((begun s j js .stale 0 (fun m => { m with state := some .rebuilding }) s.store).win j.window).withSlot j.target
      (fun m => { m with state := some .current, whole := false, serial := (s.leg j.target).identity.map (·.serial) }) = rebuilt := by
    rw [begun_win, withSlot_withSlot (f := fun m => { m with state := some .rebuilding }) _ _ fun _ => rfl]
    rfl
  have hdone : completed (begun s j js .stale 0 (fun m => { m with state := some .rebuilding }) s.store) (j.started .stale 0) js rebuilt =
      { s.setWin j.window rebuilt with
        events := ((s.events.offer (.jobStarted j.window j.target .stale j.number)).offer
          (.jobDone j.window j.target j.number)).offer (.memberChange j.window j.target .rebuilt (some .current))
        jobs := js
        notice := Notice.full } := by
    have hstore := filter_of_staleList_nil hg
    simp only [completed, begun, State.setWin, Job.started, Vector.set_set, hstore]
  rw [← hdone, ← hwin, ← hhealth]
  rfl

end

/-- Settles O48: the attempt's recursion taken one head at a time, and a start as the state in which the job has begun, followed by its first
segment or its completion. -/
theorem headJobsStartOrAreRemoved : Obligations.HeadJobsStartOrAreRemoved := by
  unfold Obligations.HeadJobsStartOrAreRemoved
  refine ⟨fun s => rfl, fun s j => runningJob_iff, fun s h => startHeads_rests h _, ?_, ?_, startCheck_checks, ?_, ?_⟩
  · intro s j js c h hr hp hc
    rw [startAttempt_of_jobs h, startHeads_removes h hr hp hc]
    rfl
  · intro s j js h hr hp hc u
    rw [startAttempt_of_jobs h, startHeads_starts h hr hp hc]
    refine ⟨fun hu => ?_, fun hu => ?_⟩
    · rcases hu with hu | hu
      · rw [hu]
        rfl
      · exact startHeads_rests (Or.inr (Or.inl hu)) _
    · rw [startAttempt, hu]
  · exact fun s j js k h _ hc hn hm hk => fullJob_starts h hc hn hm hk
  · intro s j js k h _ hc hn hm hw hk withSlot
    exact ⟨fun g gs hg => staleJob_starts h hc hn hm hw hk hg, fun hg => staleJob_completes h hc hn hm hw hg⟩

end Sys2Proof.Machine
end

section
/-! SUPPORT. The engine at work (R108 to R120): sources, chunk reads and writes, segment ends, restarts. -/

namespace Sys2Proof.Machine

open Sys2Proof.Safety

/-! ## Chunks given up (R119) -/

/-- A leg without the engine's requests: the unsent ones gone, the sent ones orphaned. -/
def LegPort.chunkless (p : LegPort) : LegPort :=
  { p with
    copy := p.copy.filter fun r => !r.isChunk
    inflight := p.inflight.map fun f =>
      if f.owner.any Owner.isChunk = true ∧ f.condition = .live then { f with condition := .orphaned, owner := none } else f }

theorem orphanWhere_eq (l : LegIx) (own : Owner → Bool) (s : State) : orphanWhere l own s = s.setLeg l { s.leg l with
    inflight := (s.leg l).inflight.map fun f =>
      if f.owner.any own = true ∧ f.condition = .live then { f with condition := .orphaned, owner := none } else f } := by
  rw [orphanWhere, modLeg]
  congr 3
  funext f
  by_cases ho : f.owner.any own = true <;> simp [ho, Flight.orphan]

theorem abandonOn_eq (s : State) (l : LegIx) : abandonOn s l =
    { s.setLeg l (s.leg l).chunkless with
      notice := if (s.leg l).copy.any LegRequest.isChunk then Notice.full else s.notice } := by
  unfold abandonOn
  rw [orphanWhere_eq, modLeg, setLeg_leg_self, setLeg_setLeg]
  split <;> rfl

theorem foldl_abandonOn {as : List LegIx} (hn : as.Nodup) (s : State) :
    let t := as.foldl abandonOn s
    t = { s with legs := t.legs, notice := t.notice } ∧
      (∀ k, t.leg k = if k ∈ as then (s.leg k).chunkless else s.leg k) ∧
      t.notice = if (∃ l ∈ as, (s.leg l).copy.any LegRequest.isChunk = true) then Notice.full else s.notice := by
  induction as generalizing s with
  | nil => exact ⟨rfl, fun k => by simp, by simp⟩
  | cons a as ih =>
    obtain ⟨ha, has⟩ := List.nodup_cons.mp hn
    obtain ⟨hrest, hlegs, hnotice⟩ := ih has (abandonOn s a)
    have hself : (abandonOn s a).leg a = (s.leg a).chunkless := by rw [abandonOn_eq]; exact setLeg_leg_self s a _
    have hother (k : LegIx) (hk : k ≠ a) : (abandonOn s a).leg k = s.leg k := by
      rw [abandonOn_eq]
      exact setLeg_leg_of_ne s _ (Ne.symm hk)
    refine ⟨?_, fun k => ?_, ?_⟩
    · rw [List.foldl_cons]
      conv => lhs; rw [hrest]
      rw [abandonOn_eq]
      rfl
    · rw [List.foldl_cons, hlegs]
      by_cases hk : k = a
      · subst hk
        rw [if_neg ha, hself, if_pos (List.mem_cons_self ..)]
      · rw [hother k hk]
        simp only [List.mem_cons, hk, false_or]
    · rw [List.foldl_cons, hnotice]
      have hexists : (∃ l ∈ as, ((abandonOn s a).leg l).copy.any LegRequest.isChunk = true) ↔
          ∃ l ∈ as, (s.leg l).copy.any LegRequest.isChunk = true :=
        exists_congr fun l => and_congr_right fun hl => by rw [hother l (fun he => ha (he ▸ hl))]
      have hfirst : (abandonOn s a).notice = if (s.leg a).copy.any LegRequest.isChunk then Notice.full else s.notice := by
        rw [abandonOn_eq]
      simp only [hexists, hfirst, List.exists_mem_cons_iff]
      by_cases h1 : (s.leg a).copy.any LegRequest.isChunk = true
      · simp only [h1, true_or, if_true, ite_self]
      · simp only [h1, false_or, if_false, Bool.false_eq_true]

theorem nodup_allLegs : allLegs.Nodup := by decide

theorem isChunk_iff {r : LegRequest} : r.isChunk = true ↔ ∃ n c, r.owner = .chunk n c := by
  unfold LegRequest.isChunk
  cases r.owner <;> simp

section
variable {s : State} {j : Job} {js : List Job}

theorem abandonChunks_leg (s : State) (l : LegIx) : (abandonChunks s).leg l = (s.leg l).chunkless := by
  obtain ⟨-, hlegs, -⟩ := foldl_abandonOn nodup_allLegs s
  rw [abandonChunks, raiseWork_leg, modJob_leg, hlegs, if_pos (mem_allLegs l)]

theorem abandonChunks_eq (h : s.jobs = j :: js) (hr : j.running = true) : abandonChunks s = { s with
    legs := (abandonChunks s).legs, jobs := { j with chunks := [] } :: js, notice := (abandonChunks s).notice } := by
  obtain ⟨legs, notice, hrest⟩ : ∃ legs notice, allLegs.foldl abandonOn s = { s with legs := legs, notice := notice } :=
    ⟨_, _, (foldl_abandonOn nodup_allLegs s).1⟩
  have heq : abandonChunks s = { s with
      legs := legs, jobs := { j with chunks := [] } :: js, notice := { notice with work := true } } := by
    rw [abandonChunks, hrest, modJob_running (s := { s with legs := legs, notice := notice }) h hr]
    rfl
  rw [heq]

theorem modJob_notice (s : State) (f : Job → Job) : (modJob f s).notice = s.notice := by
  unfold modJob
  split
  · rename_i j js h
    split <;> rfl
  · rfl

theorem abandonChunks_notice (s : State) : ((∃ l, ∃ r ∈ (s.leg l).copy, ∃ n c, r.owner = .chunk n c) →
      (abandonChunks s).notice = Notice.full) ∧
    ((∀ l, ∀ r ∈ (s.leg l).copy, ¬ ∃ n c, r.owner = .chunk n c) → (abandonChunks s).notice = { s.notice with work := true }) := by
  have hiff : (∃ l ∈ allLegs, (s.leg l).copy.any LegRequest.isChunk = true) ↔
      ∃ l, ∃ r ∈ (s.leg l).copy, ∃ n c, r.owner = .chunk n c := by
    simp only [mem_allLegs, true_and, List.any_eq_true, isChunk_iff]
  have hnotice : (abandonChunks s).notice = { (allLegs.foldl abandonOn s).notice with work := true } :=
    congrArg (fun n : Notice => { n with work := true }) (modJob_notice _ _)
  have hfold := (foldl_abandonOn nodup_allLegs s).2.2
  refine ⟨fun h => ?_, fun h => ?_⟩
  · rw [hnotice, hfold.trans (if_pos (hiff.mpr h))]
    rfl
  · rw [hnotice, hfold.trans (if_neg (mt hiff.mp ?_))]
    rintro ⟨l, r, hr, hc⟩
    exact h l r hr hc

/-! ## The source (R108) -/

theorem retakeSource_rests (h : runningJob s = none ∨ (∃ j, runningJob s = some j ∧ (j.source.isSome = true ∨ j.segment = none ∨
    ∃ k, leadOf (s.win j.window) = some k ∧ (s.leg k.leg).state ≠ .up))) : retakeSource s = s := by
  unfold retakeSource
  rcases h with h | ⟨j, hj, h⟩
  · rw [h]
  · rw [hj]
    dsimp only
    rcases h with h | h | ⟨k, hk, hu⟩
    · refine if_neg ?_
      rw [Option.isNone_eq_false_iff.mpr h]
      exact Bool.false_ne_true
    · refine if_neg ?_
      rw [h, Option.isSome_none, Bool.and_false]
      exact Bool.false_ne_true
    · rw [hk]
      simp only [Bool.eq_false_iff.mpr (mt isUp_iff.mp hu), Bool.false_eq_true, if_false, ite_self]

theorem retakeSource_waits (hj : runningJob s = some j) (hs : j.source = none) (hg : j.segment.isSome = true) : retakeSource s =
    match leadOf (s.win j.window) with
    | some m => if isUp s m.leg then takeSource s else s
    | none => endIfLost j.window s := by
  simp only [retakeSource, hj, hs, hg, Option.isNone_none, Bool.and_self, if_true] <;> rfl

/-! ## Chunk reads (R111, R112) -/

theorem chunkReadDue_iff {l : LegIx} {a : Nat} : chunkReadDue s j = some (l, a) ↔
    j.source = some l ∧ (∃ g m, j.segment = some g ∧ memberOf s j.window l = some m ∧ a = m.base + g * 65536 + j.nextChunk * 256) ∧
    j.chunks.length < 4 ∧ j.nextChunk < 256 ∧ (s.leg l).state = .up ∧ (s.leg l).copy.length < 4 ∧
    ∀ x ∈ s.writes, l ∈ x.owed → ∀ b, addrOn x.legAddrs l = some b → ¬ Share a 256 b x.length := by
  have hfree (k : LegIx) (b : Nat) : owedBlocks s k b 256 = false ↔
      ∀ x ∈ s.writes, k ∈ x.owed → ∀ c, addrOn x.legAddrs k = some c → ¬ Share b 256 c x.length := by
    rw [← Bool.not_eq_true, owedBlocks_iff]
    simp only [not_exists, not_and]
  have hdue (k : LegIx) (m : Member) (g : Nat) : chunkAddr m.base g j.nextChunk = m.base + g * 65536 + j.nextChunk * 256 := rfl
  unfold chunkReadDue
  rcases hs : j.source with _ | k
  · simp
  · rcases hg : j.segment with _ | g
    · simp
    · rcases hm : memberOf s j.window k with _ | m
      · simp only [hm, reduceCtorEq, false_iff]
        rintro ⟨hkl, ⟨g', m', -, hm', -⟩, -⟩
        cases hkl
        rw [hm] at hm'
        cases hm'
      · simp only [hm]
        rw [Option.ite_none_right_eq_some, Bool.and_eq_true, Bool.and_eq_true, Bool.and_eq_true, decide_eq_true_eq, decide_eq_true_eq,
          canEnter_iff, Bool.not_eq_true', show Config.chunkBytes = 256 from rfl, hfree, Option.some.injEq, Prod.mk.injEq]
        constructor
        · rintro ⟨⟨⟨⟨h4, h256⟩, hup, hroom⟩, hno⟩, rfl, rfl⟩
          exact ⟨rfl, ⟨g, m, rfl, hm, rfl⟩, h4, h256, hup, hroom, hno⟩
        · rintro ⟨hkl, ⟨g', m', hg', hm', rfl⟩, h4, h256, hup, hroom, hno⟩
          cases hkl
          cases hg'
          rw [hm] at hm'
          cases hm'
          exact ⟨⟨⟨⟨h4, h256⟩, hup, hroom⟩, hno⟩, rfl, rfl⟩

theorem placeChunkReads_rests (h : runningJob s = none ∨ ∃ j, runningJob s = some j ∧ chunkReadDue s j = none) (n : Nat) :
    placeChunkReadsUpTo n s = s := by
  cases n with
  | zero => rfl
  | succ n =>
    unfold placeChunkReadsUpTo
    rcases h with h | ⟨j, hj, hd⟩
    · simp only [h]
    · simp only [hj, hd]

/-- The running job with its next chunk's read in the source's copy channel. -/
def chunkPlaced (s : State) (j : Job) (js : List Job) (l : LegIx) (a : Nat) : State :=
  { s.setLeg l { s.leg l with
      copy := (s.leg l).copy ++ [{
        kind := .read, addr := a, length := 256, data := [], owner := .chunk j.number j.nextChunk, age := (s.leg l).nextAge }]
      nextAge := (s.leg l).nextAge + 1 } with
    jobs := { j with
      nextChunk := j.nextChunk + 1
      chunks := j.chunks ++ [{ index := j.nextChunk, phase := .reading, data := [] }] } :: js }

theorem placeChunkReads_places (h : s.jobs = j :: js) (hr : j.running = true) {l : LegIx} {a : Nat}
    (hd : chunkReadDue s j = some (l, a)) (n : Nat) :
    placeChunkReadsUpTo (n + 1) s = placeChunkReadsUpTo n (chunkPlaced s j js l a) := by
  obtain ⟨-, -, -, -, hup, hroom, -⟩ := chunkReadDue_iff.mp hd
  have henter : canEnter s l .copy = true := canEnter_iff.mpr ⟨hup, hroom⟩
  have hplaced : modJob (fun j => { j with nextChunk := j.nextChunk + 1, chunks := j.chunks ++ [newChunk j.nextChunk] })
      (enqueue l .copy .read a Config.chunkBytes [] (.chunk j.number j.nextChunk) s) = chunkPlaced s j js l a := by
    rw [enqueue_of_canEnter henter, modJob_running (s := s.setLeg l _) h hr]
    rfl
  conv => lhs; unfold placeChunkReadsUpTo
  simp only [runningJob_of_head h hr, hd, hplaced]

theorem chunkReadDue_full (h : 4 ≤ j.chunks.length) : chunkReadDue s j = none := by
  rw [Option.eq_none_iff_forall_ne_some]
  rintro ⟨l, a⟩ hd
  exact absurd (chunkReadDue_iff.mp hd).2.2.1 (by omega)

theorem placeChunkReads_last (h : s.jobs = j :: js) (hr : j.running = true) {l : LegIx} {a : Nat}
    (hd : chunkReadDue s j = some (l, a)) (h3 : j.chunks.length = 3) :
    placeChunkReadsUpTo 4 s = chunkPlaced s j js l a := by
  rw [placeChunkReads_places h hr hd]
  have hrun : runningJob (chunkPlaced s j js l a) = some { j with
      nextChunk := j.nextChunk + 1
      chunks := j.chunks ++ [{ index := j.nextChunk, phase := .reading, data := [] }] } := runningJob_of_head rfl hr
  refine placeChunkReads_rests (Or.inr ⟨_, hrun, chunkReadDue_full ?_⟩) 3
  rw [List.length_append, h3]
  exact Nat.le_refl _

end

end Sys2Proof.Machine
end

section
/-! SUPPORT. Chunk writes and segment ends (R113 to R120), and the obligation on the engine. -/

namespace Sys2Proof.Machine

open Sys2Proof.Safety

section
variable {s : State} {j : Job} {js : List Job}

/-! ## Chunk writes (R113, R114) -/

theorem modChunk_eq (h : s.jobs = j :: js) (hr : j.running = true) (c : Nat) (f : Chunk → Chunk) : modChunk c f s =
    { s with jobs := { j with chunks := j.chunks.map fun k => if k.index = c then f k else k } :: js } := by
  rw [modChunk, modJob_running h hr]
  simp only [beq_iff_eq]

theorem modJob_modJob (h : s.jobs = j :: js) (hr : j.running = true) (f g : Job → Job) (hf : (f j).running = true) :
    modJob g (modJob f s) = modJob (g ∘ f) s := by
  rw [modJob_running h hr f, modJob_running (s := { s with jobs := f j :: js }) rfl hf, modJob_running h hr]
  rfl

theorem modChunk_modChunk (h : s.jobs = j :: js) (hr : j.running = true) (c : Nat) (d : List Byte) :
    modChunk c (fun k => { k with phase := .writing }) (modChunk c (fun k => { k with data := k.data ++ d }) s) =
      modChunk c (fun k => { k with data := k.data ++ d, phase := .writing }) s := by
  simp only [modChunk]
  rw [modJob_modJob h hr _ _ hr, modJob_running h hr, modJob_running h hr]
  simp only [Function.comp_apply, List.map_map]
  congr 4
  funext k
  by_cases hk : k.index = c <;> simp [hk]

theorem chunkBeat_gone {c : Nat} (h : ¬ ChunkIn s j.number c .reading) (d : List Byte) (last : Bool) :
    chunkBeat j.number c d last s = s := if_neg (mt chunkIn_iff.mp h)

theorem chunkBeat_more {c : Nat} (hin : ChunkIn s j.number c .reading) (d : List Byte) :
    chunkBeat j.number c d false s = modChunk c (fun k => { k with data := k.data ++ d }) s := if_pos (chunkIn_iff.mpr hin)

theorem chunkBeat_last {c : Nat} (h : s.jobs = j :: js) (hr : j.running = true) (hin : ChunkIn s j.number c .reading) (d : List Byte) :
    chunkBeat j.number c d true s = placeChunkWrite c (modChunk c (fun k => { k with data := k.data ++ d, phase := .writing }) s) := by
  rw [← modChunk_modChunk h hr]
  exact if_pos (chunkIn_iff.mpr hin)

theorem placeChunkWrite_eq (hj : runningJob s = some j) {g c : Nat} {m : Member} {k : Chunk} (hg : j.segment = some g)
    (hm : memberOf s j.window j.target = some m) (hc : canEnter s j.target .copy = true)
    (hk : j.chunks.find? (fun k => k.index == c) = some k) :
    placeChunkWrite c s = s.setLeg j.target { s.leg j.target with
      copy := (s.leg j.target).copy ++ [{
        kind := .write, addr := m.base + g * 65536 + c * 256, length := 256, data := k.data, owner := .chunk j.number c
        age := (s.leg j.target).nextAge }]
      nextAge := (s.leg j.target).nextAge + 1 } := by
  have hdata : j.chunkData c = k.data := by rw [Job.chunkData, hk]; rfl
  simp only [placeChunkWrite, hj, hg, hm, hdata]
  exact enqueue_of_canEnter hc ..

theorem ackChunk_gone {c : Nat} (h : ¬ ChunkIn s j.number c .writing) : ackChunk j.number c s = s := if_neg (mt chunkIn_iff.mp h)

theorem ackChunk_written (h : s.jobs = j :: js) (hr : j.running = true) {c : Nat} (hin : ChunkIn s j.number c .writing) :
    let written := { s with
      jobs := { j with chunks := j.chunks.filter fun k => k.index != c, chunksWritten := j.chunksWritten + 1 } :: js
      notice := { s.notice with work := true } }
    ackChunk j.number c s = if j.chunksWritten + 1 = 256 then segmentEnd written else written := by
  intro written
  have hwritten : (modJob (fun j => { j with chunks := j.chunks.filter fun k => k.index != c, chunksWritten := j.chunksWritten + 1 })
      s).raiseWork = written := by
    rw [modJob_running h hr]
    rfl
  have hrun : runningJob written = some { j with
      chunks := j.chunks.filter fun k => k.index != c, chunksWritten := j.chunksWritten + 1 } := runningJob_of_head rfl hr
  rw [ackChunk, if_pos (chunkIn_iff.mpr hin), hwritten]
  dsimp only
  rw [hrun]
  simp only [Option.any_some, beq_iff_eq]
  rfl

/-! ## Segment ends (R115, R120) -/

theorem segmentEnd_repeats (h : s.jobs = j :: js) (hr : j.running = true) {g p : Nat} (hg : j.segment = some g) (hp : j.pass = some p)
    (ho : j.overtaken = true) (h4 : p < 4) : segmentEnd s = endIfLost j.window (takeSource { s with
      jobs := { j with pass := some (p + 1), overtaken := false, nextChunk := 0, chunksWritten := 0 } :: js }) := by
  have hlate : (j.overtaken && decide (p < Config.closedPass)) = true := by rw [ho, Bool.true_and, decide_eq_true_eq]; exact h4
  simp only [segmentEnd, repeatSegment, takeSourceOrEnd, runningJob_of_head h hr, hg, hp, hlate, if_true, modJob_running h hr,
    Option.map_some]

/-- A segment that is done: its stale entry is gone unless the job runs in FULL mode. -/
def segmentDone (s : State) (j : Job) (js : List Job) (g : Nat) : State :=
  { s with
    jobs := { j with segment := none, pass := none, segmentsDone := j.segmentsDone + 1 } :: js
    store := if j.mode = .full then s.store
      else s.store.filter fun e => !(e == { window := j.window, leg := j.target, segment := g }) }

theorem segmentEnd_done (h : s.jobs = j :: js) (hr : j.running = true) {g p : Nat} (hg : j.segment = some g) (hp : j.pass = some p)
    (ho : j.overtaken = false ∨ 4 ≤ p) : segmentEnd s =
      afterSegment j.number (if p = 4 then resumeRelease (markReleased (segmentDone s j js g)) else segmentDone s j js g) := by
  have hlate : (j.overtaken && decide (p < Config.closedPass)) = false := by
    rw [Bool.and_eq_false_iff, decide_eq_false_iff_not]
    exact ho.imp_right fun h4 => by rw [show Config.closedPass = 4 from rfl]; omega
  have hdone : (if j.mode = .full then { s with
        jobs := { j with segment := none, pass := none, segmentsDone := j.segmentsDone + 1 } :: js }
      else removeStale j.window j.target g { s with
        jobs := { j with segment := none, pass := none, segmentsDone := j.segmentsDone + 1 } :: js }) = segmentDone s j js g := by
    unfold segmentDone
    by_cases hm : j.mode = .full <;> simp [hm, removeStale]
  simp only [segmentEnd, runningJob_of_head h hr, hg, hp, hlate, Bool.false_eq_true, if_false, modJob_running h hr, beq_iff_eq, hdone]
  rfl

theorem markReleased_eq (s : State) : markReleased s = { s with
    writes := s.writes.map fun e => if e.held = .held then { e with held := .released } else e
    notice := { s.notice with work := true, head := true } } := by
  simp only [markReleased, beq_iff_eq]
  rfl

theorem jobComplete_iff : jobComplete s j = true ↔
    if j.mode = .full then j.segmentsDone = (s.win j.window).size else staleList s j.window j.target = [] := by
  unfold jobComplete
  by_cases hm : j.mode = .full <;> simp [hm]

theorem afterSegment_complete (hj : runningJob s = some j) (h : jobComplete s j = true) : afterSegment j.number s = completeJob s := by
  simp only [afterSegment, hj, beq_self_eq_true, if_true, h]

theorem afterSegment_next (h : s.jobs = j :: js) (hr : j.running = true) (hc : jobComplete s j = false) :
    afterSegment j.number s = endIfLost j.window (takeSource { s with jobs := { j with
      segment := if j.mode = .full then some j.segmentsDone else (staleList s j.window j.target).head?
      pass := some 1, overtaken := false, nextChunk := 0, chunksWritten := 0 } :: js }) := by
  simp only [afterSegment, segmentStart, takeSourceOrEnd, nextSegment, runningJob_of_head h hr, beq_self_eq_true, if_true, hc,
    Bool.false_eq_true, if_false, modJob_running h hr, beq_iff_eq]

theorem afterSegment_other (hj : runningJob s = some j) {n : BitVec 8} (hn : n ≠ j.number) : afterSegment n s = s := by
  simp only [afterSegment, hj, beq_iff_eq, if_neg (Ne.symm hn)]

theorem restartPass_eq (h : s.jobs = j :: js) (hr : j.running = true) : restartPass s = takeSource { abandonChunks s with
    jobs := { j with chunks := [], overtaken := false, nextChunk := 0, chunksWritten := 0 } :: js } := by
  have hjobs : (abandonChunks s).jobs = { j with chunks := [] } :: js := congrArg State.jobs (abandonChunks_eq h hr)
  rw [restartPass, modJob_running hjobs hr]

end

theorem closedFor_iff {s : State} {w : WinIx} {g : Nat} : closedFor s w g = true ↔
    ∃ j, runningJob s = some j ∧ j.window = w ∧ j.segment = some g ∧ j.pass = some 4 := by
  unfold closedFor
  rcases runningJob s with _ | j
  · simp
  · simp only [Bool.and_eq_true, beq_iff_eq, Option.some.injEq, exists_eq_left', show Config.closedPass = 4 from rfl, and_assoc]

/-- Settles O49: each clause is a named fact about one operation of the engine. -/
theorem theEngineTakesSourcesAndPlacesChunkReads : Obligations.TheEngineTakesSourcesAndPlacesChunkReads := by
  have retake {s t : State} (e : retakeSource s = t) : exec .sourceRetake s = .next (react t) := reacts (c := .sourceRetake) rfl e
  have place {s t : State} (e : placeChunkReadsUpTo 4 s = t) : exec .chunkReadPlace s = .next (react t) :=
    reacts (c := .chunkReadPlace) rfl e
  unfold Obligations.TheEngineTakesSourcesAndPlacesChunkReads
  refine ⟨fun s h => retake (retakeSource_rests h), ?_, ?_, fun s h => place (placeChunkReads_rests h 4),
    fun s j l a => chunkReadDue_iff, fun s => place rfl, ?_, ?_, ?_, ?_, ?_, fun s w g => closedFor_iff, ?_⟩
  · intro s j js k h hr hs hg hk hu
    refine retake ?_
    rw [retakeSource_waits (runningJob_of_head h hr) hs hg, hk]
    simp only [isUp_iff.mpr hu, if_true]
    rw [takeSource_lead h hr hk, if_pos hu]
  · intro s j hj
    refine ⟨fun hs hg hk => retake ?_, fun hl => ?_, fun hl => ?_⟩
    · rw [retakeSource_waits hj hs hg, hk]
    · rw [endIfLost_of_running hj, if_pos hl]
    · rw [endIfLost_of_running hj, hl]
      rfl
  · exact fun s j js l a h hr hd => ⟨placeChunkReads_places h hr hd, fun h3 => place (placeChunkReads_last h hr hd h3)⟩
  · intro s j js c d h hr with_
    refine ⟨fun hin => chunkBeat_gone hin d, fun hin => ⟨?_, ?_⟩,
      fun g m k hg hm hc hk => placeChunkWrite_eq (runningJob_of_head h hr) hg hm hc hk, ackChunk_gone, ackChunk_written h hr⟩
    · exact (chunkBeat_more hin d).trans (modChunk_eq h hr c _)
    · exact (chunkBeat_last h hr hin d).trans (congrArg (placeChunkWrite c) (modChunk_eq h hr c _))
  · intro s j js g p h hr hg hp again done released
    refine ⟨fun ho h4 => segmentEnd_repeats h hr hg hp ho h4, fun ho => ?_⟩
    rw [segmentEnd_done h hr hg hp ho, markReleased_eq]
    rfl
  · intro s j js h hr complete rebuilt
    have hj : runningJob s = some j := runningJob_of_head h hr
    exact ⟨fun hc => afterSegment_complete hj (jobComplete_iff.mpr hc),
      fun hc => afterSegment_next h hr (Bool.eq_false_iff.mpr (mt jobComplete_iff.mp hc)), fun n hn => afterSegment_other hj hn,
      fun hs => completeJob_eq h hr hs, takeSource_eq h hr, restartPass_eq h hr⟩
  · intro s h n
    simp only [afterSegment, h]
  · intro s engines
    exact ⟨abandonChunks_leg s, fun r => isChunk_iff, fun j js h hr => abandonChunks_eq h hr, (abandonChunks_notice s).1,
      (abandonChunks_notice s).2⟩

end Sys2Proof.Machine
end

section
/-! SUPPORT. The visit of an arrived leg's slots (R37 to R40). -/

namespace Sys2Proof.Machine

open Sys2Proof.Safety

/-! ## What keeps slots and store -/

theorem postChange_windows_store (w : WinIx) (old new : Option Health) (s : State) :
    (postChange w old new s).windows = s.windows ∧ (postChange w old new s).store = s.store := by
  unfold postChange
  split
  · split <;> exact ⟨rfl, rfl⟩
  · exact ⟨rfl, rfl⟩

theorem memberOf_congr {s t : State} (h : t.windows = s.windows) (w : WinIx) (l : LegIx) : memberOf t w l = memberOf s w l := by
  simp only [memberOf, State.win, h]

theorem staleList_congr {s t : State} (h : t.store = s.store) (w : WinIx) (l : LegIx) : staleList t w l = staleList s w l := by
  simp only [staleList, h]

/-- A change of slots that keeps their states keeps whether the window is LOST. -/
theorem isLost_withSlot (x : Window) (l : LegIx) {f : Member → Member} (hf : ∀ m, (f m).state = m.state) :
    isLost (x.withSlot l f) = isLost x := by
  rw [Bool.eq_iff_iff, isLost_iff, isLost_iff]
  refine and_congr_right fun _ => ?_
  simp only [Window.withSlot, List.forall_mem_map]
  refine forall₂_congr fun m _ => ?_
  by_cases hl : m.leg = l <;> simp [hl, hf]

/-! ## The job of R40 -/

/-- An AUTO job is due for a slot that did not rejoin (R40). -/
def JobDue (s : State) (w : WinIx) (l : LegIx) : Prop :=
  (s.win w).state = .enabled ∧ isLost (s.win w) = false ∧ (s.win w).autoRebuild = true ∧ ∀ j ∈ s.jobs, ¬ (j.window = w ∧ j.target = l)

theorem arrivalJob_test {s : State} {w : WinIx} {l : LegIx} :
    ((s.win w).state == .enabled && !isLost (s.win w) && (s.win w).autoRebuild && !hasJob s w l) = true ↔ JobDue s w l := by
  have hjob : hasJob s w l = false ↔ ∀ j ∈ s.jobs, ¬ (j.window = w ∧ j.target = l) := by
    rw [← Bool.not_eq_true, hasJob_iff]
    simp only [not_exists, not_and]
  rw [Bool.and_eq_true, Bool.and_eq_true, Bool.and_eq_true, beq_iff_eq, Bool.not_eq_true', Bool.not_eq_true', hjob, JobDue, and_assoc,
    and_assoc]

theorem arrivalJob_due {s : State} {w : WinIx} {l : LegIx} (h : JobDue s w l) : arrivalJob w l s = autoQueued w l s :=
  if_pos (arrivalJob_test.mpr h)

theorem arrivalJob_rests {s : State} {w : WinIx} {l : LegIx} (h : ¬ JobDue s w l) : arrivalJob w l s = s :=
  if_neg (mt arrivalJob_test.mp h)

theorem arrivalJob_windows_store (w : WinIx) (l : LegIx) (s : State) :
    (arrivalJob w l s).windows = s.windows ∧ (arrivalJob w l s).store = s.store := by
  by_cases h : JobDue s w l
  · rw [arrivalJob_due h]
    exact ⟨autoQueued_windows w l s, autoQueued_store w l s⟩
  · rw [arrivalJob_rests h]
    exact ⟨rfl, rfl⟩

/-! ## The visit of one slot -/

/-- A slot found with another serial: WHOLE, its entries freed, SERIAL_CHANGED offered (R38). -/
def serialMarked (s : State) (w : WinIx) (l : LegIx) (i : Identity) : State :=
  { s.setWin w ((s.win w).withSlot l fun k => { k with whole := true }) with
    store := s.store.filter fun e => !(e.window == w && e.leg == l)
    events := s.events.offer (.serialChanged w l i.serial) }

/-- A slot that rejoins: CURRENT, bound to the serial, its entries freed, MEMBER_CHANGE and the change of health offered (R39). -/
def rejoined (s : State) (w : WinIx) (l : LegIx) (i : Identity) : State :=
  let x := (s.win w).withSlot l fun k => { k with state := some .current, whole := false, serial := some i.serial }
  postChange w (healthOf (s.win w)) (healthOf x) { s.setWin w x with
    store := s.store.filter fun e => !(e.window == w && e.leg == l)
    events := s.events.offer (.memberChange w l .cleanRejoin (some .current))
    notice := Notice.full }

section
variable {s : State} {w : WinIx} {l : LegIx} {m : Member} {i : Identity}

theorem serialChanged_iff : (m.serial.any fun v => v != i.serial) = true ↔ ∃ v, m.serial = some v ∧ v ≠ i.serial := by
  cases m.serial <;> simp

theorem serialMarked_win (s : State) (w : WinIx) (l : LegIx) (i : Identity) :
    (serialMarked s w l i).win w = (s.win w).withSlot l fun k => { k with whole := true } := setWin_win_self s w _

theorem jobDue_serialMarked : JobDue (serialMarked s w l i) w l ↔ JobDue s w l := by
  unfold JobDue
  rw [serialMarked_win, isLost_withSlot (f := fun k => { k with whole := true }) _ _ fun _ => rfl]
  rfl

theorem visitSlot_changed (hc : ∃ v, m.serial = some v ∧ v ≠ i.serial) : visitSlot w m i s =
    if fitsLeg (s.leg m.leg) m.base (s.win w).size = true then arrivalJob w m.leg (serialMarked s w m.leg i)
    else post (.capacityMismatch w m.leg i.capacity) (serialMarked s w m.leg i) := by
  have hmarked : post (.serialChanged w m.leg i.serial) (makeWhole w m.leg s) = serialMarked s w m.leg i := by
    rw [makeWhole, modMember_withSlot]
    rfl
  have hsize : ((serialMarked s w m.leg i).win w).size = (s.win w).size := by rw [serialMarked_win]; rfl
  simp only [visitSlot, serialChanged_iff.mpr hc, if_true, hmarked, hsize, Bool.not_true, Bool.false_and, Bool.false_eq_true, if_false]
  rw [show (serialMarked s w m.leg i).leg m.leg = s.leg m.leg from rfl]
  cases fitsLeg (s.leg m.leg) m.base (s.win w).size <;> rfl

theorem visitSlot_same (hc : ¬ ∃ v, m.serial = some v ∧ v ≠ i.serial) : visitSlot w m i s =
    if fitsLeg (s.leg m.leg) m.base (s.win w).size = true then
      if m.whole = false ∧ staleList s w m.leg = [] then cleanRejoin w m.leg s else arrivalJob w m.leg s
    else post (.capacityMismatch w m.leg i.capacity) s := by
  simp only [visitSlot, Bool.eq_false_iff.mpr (mt serialChanged_iff.mp hc), Bool.false_eq_true, if_false, Bool.not_false, Bool.true_and,
    Bool.and_eq_true, Bool.not_eq_true', List.isEmpty_iff]
  cases fitsLeg (s.leg m.leg) m.base (s.win w).size <;> rfl

theorem visitSlot_changed_slot (hm : memberOf s w m.leg = some m) (hc : ∃ v, m.serial = some v ∧ v ≠ i.serial) :
    memberOf (visitSlot w m i s) w m.leg = some { m with whole := true } ∧ staleList (visitSlot w m i s) w m.leg = [] := by
  have hmember : memberOf (serialMarked s w m.leg i) w m.leg = some { m with whole := true } :=
    memberOf_withSlot (s := s) (f := fun k => { k with whole := true }) (fun _ => rfl) hm
  have hlist : staleList (serialMarked s w m.leg i) w m.leg = [] := congrArg (List.map StaleEntry.segment) (staleList_filter s w m.leg)
  have hkeep : (visitSlot w m i s).windows = (serialMarked s w m.leg i).windows ∧
      (visitSlot w m i s).store = (serialMarked s w m.leg i).store := by
    rw [visitSlot_changed hc]
    split
    · exact arrivalJob_windows_store ..
    · exact ⟨rfl, rfl⟩
  rw [memberOf_congr hkeep.1, staleList_congr hkeep.2]
  exact ⟨hmember, hlist⟩

/-! ## Clean rejoin (R39) -/

theorem promote_rejoins (hi : (s.leg l).identity = some i) : promote w l .cleanRejoin s = rejoined s w l i := by
  have hserial : serialOf s l = some i.serial := by rw [serialOf, hi]; rfl
  rw [promote, makeCurrent, modMember_withSlot, hserial, postHealth, rejoined]
  refine congrArg (fun x => postChange w (healthOf (s.win w)) (healthOf x) _) ?_
  exact setWin_win_self s w _

theorem rejoined_windows (s : State) (w : WinIx) (l : LegIx) (i : Identity) : (rejoined s w l i).windows =
    (s.setWin w ((s.win w).withSlot l fun k => { k with state := some .current, whole := false, serial := some i.serial })).windows :=
  (postChange_windows_store ..).1

theorem rejoined_win (s : State) (w : WinIx) (l : LegIx) (i : Identity) : (rejoined s w l i).win w =
    (s.win w).withSlot l fun k => { k with state := some .current, whole := false, serial := some i.serial } := by
  rw [State.win, rejoined_windows]
  exact setWin_win_self s w _

/-- A rejoin ends the LOST period of an ENABLED window that rebuilds by itself. -/
def EndsLost (s : State) (w : WinIx) : Prop :=
  isLost (s.win w) = true ∧ (s.win w).state = .enabled ∧ (s.win w).autoRebuild = true

theorem cleanRejoin_test : (isLost (s.win w) && ((rejoined s w l i).win w).state == .enabled && ((rejoined s w l i).win w).autoRebuild) =
    true ↔ EndsLost s w := by
  rw [rejoined_win, Bool.and_eq_true, Bool.and_eq_true, beq_iff_eq, and_assoc]
  rfl

theorem cleanRejoin_ends (hi : (s.leg l).identity = some i) (h : EndsLost s w) :
    cleanRejoin w l s = queueAutoJobs w (rejoined s w l i) := by
  unfold cleanRejoin
  rw [promote_rejoins hi]
  exact if_pos (cleanRejoin_test.mpr h)

theorem cleanRejoin_alone (hi : (s.leg l).identity = some i) (h : ¬ EndsLost s w) : cleanRejoin w l s = rejoined s w l i := by
  unfold cleanRejoin
  rw [promote_rejoins hi]
  exact if_neg (mt cleanRejoin_test.mp h)

theorem memberOf_cleanRejoin (hi : (s.leg l).identity = some i) (hm : memberOf s w l = some m) :
    memberOf (cleanRejoin w l s) w l = some { m with state := some .current, whole := false, serial := some i.serial } := by
  have hkeep : (cleanRejoin w l s).windows = (rejoined s w l i).windows := by
    by_cases h : EndsLost s w
    · rw [cleanRejoin_ends hi h]
      exact (queueAutoJobs_windows_store w _).1
    · rw [cleanRejoin_alone hi h]
  rw [memberOf_congr (hkeep.trans (rejoined_windows s w l i))]
  exact memberOf_withSlot (f := fun k => { k with state := some .current, whole := false, serial := some i.serial }) (fun _ => rfl) hm

theorem nodup_rejoined (h : ((s.win w).members.map (·.leg)).Nodup) : (((rejoined s w l i).win w).members.map (·.leg)).Nodup := by
  rw [rejoined_win, withSlot_legs]
  · exact h
  · exact fun _ => rfl

end

/-! ## The visits of a leg -/

theorem visitWindow_passes {s : State} {l : LegIx} {w : WinIx}
    (h : (s.win w).state = .disabled ∨ memberOf s w l = none ∨ (s.leg l).identity = none) : visitWindow l s w = s := by
  unfold visitWindow
  split
  next m i hm hi =>
    rcases h with h | h | h
    · refine if_neg ?_
      rw [h, bne_self_eq_false, Bool.false_and]
      exact Bool.false_ne_true
    · rw [hm] at h
      cases h
    · rw [hi] at h
      cases h
  · rfl

theorem visitWindow_of_slot {s : State} {l : LegIx} {w : WinIx} {m : Member} {i : Identity} (hm : memberOf s w l = some m)
    (hi : (s.leg l).identity = some i) :
    visitWindow l s w = if (s.win w).state != .disabled && m.state == some .stale then visitSlot w m i s else s := by
  unfold visitWindow
  rw [hm, hi]

/-- Settles O34: the cases of the visit by the serial, the capacity and the slot's own entries. -/
theorem arrivalVisitsTheStaleSlot : Obligations.ArrivalVisitsTheStaleSlot := by
  unfold Obligations.ArrivalVisitsTheStaleSlot
  refine ⟨fun s l => rfl, fun s l w => ⟨visitWindow_passes, fun m i hm hi => ⟨fun hs => ?_, fun hs hw => ?_⟩⟩, ?_⟩
  · rw [visitWindow_of_slot hm hi, beq_eq_false_iff_ne.mpr hs, Bool.and_false]
    rfl
  · rw [visitWindow_of_slot hm hi, hs, bne_iff_ne.mpr hw]
    rfl
  · intro s w m i hm hs hi u changed fits withSlot unlisted needs marked current rejoined'
    have hfit : fits → fitsLeg (s.leg m.leg) m.base (s.win w).size = true := fitsLeg_iff.mpr
    have hover : ¬ fits → ¬ fitsLeg (s.leg m.leg) m.base (s.win w).size = true := mt fitsLeg_iff.mp
    refine ⟨fun hc => ?_, fun hc hf => ?_, fun hc hf => ⟨fun hn => ?_, fun hn => ?_⟩, fun hc hf => ?_, fun hc hf hw hl => ?_,
      fun hc hf hwl => ?_⟩
    · obtain ⟨hslot, hlist⟩ := visitSlot_changed_slot hm hc
      exact ⟨by rw [slotState, hslot]; exact hs, ⟨_, hslot, rfl, rfl⟩, hlist⟩
    · exact (visitSlot_changed hc).trans (if_neg (hover hf))
    · exact (visitSlot_changed hc).trans ((if_pos (hfit hf)).trans (arrivalJob_due (jobDue_serialMarked.mpr hn)))
    · exact (visitSlot_changed hc).trans ((if_pos (hfit hf)).trans (arrivalJob_rests (mt jobDue_serialMarked.mp hn)))
    · exact (visitSlot_same hc).trans (if_neg (hover hf))
    · have hrejoins : u = cleanRejoin w m.leg s := (visitSlot_same hc).trans ((if_pos (hfit hf)).trans (if_pos ⟨hw, hl⟩))
      refine ⟨by rw [hrejoins]; exact memberOf_cleanRejoin hi hm, fun hn => hrejoins.trans (cleanRejoin_alone hi hn),
        fun h1 h2 h3 hnd => ?_⟩
      exact hrejoins.trans ((cleanRejoin_ends hi ⟨h1, h2, h3⟩).trans (queueAutoJobs_eq (nodup_rejoined hnd)))
    · have hstays : u = arrivalJob w m.leg s := by
        refine (visitSlot_same hc).trans ((if_pos (hfit hf)).trans (if_neg ?_))
        rintro ⟨hw, hl⟩
        rcases hwl with h | h
        · exact Bool.false_ne_true (hw.symm.trans h)
        · exact h hl
      exact ⟨fun hn => hstays.trans (arrivalJob_due hn), fun hn => hstays.trans (arrivalJob_rests hn)⟩

end Sys2Proof.Machine
end

section
/-! SUPPORT. What the membership, write, read and rebuild units do to slots, store, trackers, jobs and queues in a demotion, a release or a
steering, said once: every such operation is a sequence of the effects below. A property that each effect keeps is kept by them all. -/

namespace Sys2Proof.Machine

open Sys2Proof.Safety

/-! ## Effects -/

/-- Some slot of the window on leg `k` takes writes. -/
def Takes (s : State) (w : WinIx) (k : LegIx) : Prop := ∃ m ∈ (s.win w).members, m.leg = k ∧ m.takesWrites = true

/-- What becomes of one leg port: unsent requests go and sent ones are orphaned, or a request enters a queue of a leg that is UP. Where `N`
holds, a write that enters is of a window whose slot on the leg takes writes, told by `T`. -/
inductive LegEffect (N : Prop) (T : WinIx → Prop) : LegPort → LegPort → Prop
  | filter (p : LegPort) (fd fl fc : LegRequest → Bool) (own : Flight → Bool) : LegEffect N T p { p with
      direct := p.direct.filter fd, lag := p.lag.filter fl, copy := p.copy.filter fc
      inflight := p.inflight.map fun f => if own f then f.orphan else f }
  | enter (p : LegPort) (q : QueueName) (r : LegRequest) (hu : p.state = .up) (hr : N → ∀ w, r.isWriteOf w = true → T w) :
      LegEffect N T p { p.setQueue q (p.queue q ++ [r]) with nextAge := p.nextAge + 1 }

/-- What a tracked write stays under the effects but for a leg that joins its owed set. -/
structure WriteEntry.Follows (s : State) (N : Prop) (e f : WriteEntry) : Prop where
  ref : f.ref = e.ref
  window : f.window = e.window
  owed : ∀ l ∈ f.owed, l ∈ e.owed
  acked : f.acked = e.acked
  legAddrs : f.legAddrs = e.legAddrs ∨ ∃ w, (N → e.window = some w) ∧ f.legAddrs = translations (s.win w) e.addr

/-- What a tracked read stays under the effects; it joins legs that are UP. -/
structure ReadEntry.Follows (s : State) (e f : ReadEntry) : Prop where
  ref : f.ref = e.ref
  window : f.window = e.window
  legAddrs : f.legAddrs = e.legAddrs
  current : f.current = e.current ∨ f.current = none ∨ ∃ k, f.current = some k ∧ (s.leg k).state = .up

/-- One effect. The slots that may fall are told by `F`; `N` stands for references of tracked writes that are told apart. -/
inductive Effect (F : WinIx → LegIx → Prop) (N : Prop) : State → State → Prop
  | rest {s t : State} (hw : t.windows = s.windows) (hs : t.store = s.store) (hf : t.writes = s.writes) (hr : t.reads = s.reads)
      (hj : t.jobs = s.jobs) (hl : t.legs = s.legs) : Effect F N s t
  | fall (s : State) (w : WinIx) (l : LegIx) (b : Bool) (hf : F w l)
      (h : slotState s w l = some .current ∨ slotState s w l = some .rebuilding) : Effect F N s
        { s.setWin w ((s.win w).withSlot l fun m => { m with state := some .stale, whole := m.whole || b }) with
          store := if b then s.store.filter fun e => !(e.window == w && e.leg == l) else s.store }
  | whole (s : State) (w : WinIx) (l : LegIx) (h : (memberOf s w l).isSome = true) : Effect F N s
        { s.setWin w ((s.win w).withSlot l fun m => { m with whole := true }) with
          store := s.store.filter fun e => !(e.window == w && e.leg == l) }
  | insert (s : State) (w : WinIx) (l : LegIx) (g : Nat) (h : ∃ m, memberOf s w l = some m ∧ m.whole = false) : Effect F N s
        { s with store := storeInsert { window := w, leg := l, segment := g } s.store }
  | rotate (s : State) (w : WinIx) (n : Nat) : Effect F N s (s.setWin w { s.win w with rotate := n })
  | leg (s : State) (k : LegIx) (p : LegPort) (h : LegEffect N (fun w => Takes s w k) (s.leg k) p) : Effect F N s (s.setLeg k p)
  | mapWrites (s : State) (f : WriteEntry → WriteEntry) (h : ∀ e ∈ s.writes, e.Follows s N (f e)) :
      Effect F N s { s with writes := s.writes.map f }
  | dropWrites (s : State) (p : WriteEntry → Bool) : Effect F N s { s with writes := s.writes.filter p }
  | owe (s : State) (n : Nat) (k : LegIx) (h : N → ∀ e ∈ s.writes, e.ref = n → ∀ w, e.window = some w → Takes s w k) :
      Effect F N s { s with writes := s.writes.map fun e => if e.ref == n then { e with owed := legInsert k e.owed } else e }
  | mapReads (s : State) (f : ReadEntry → ReadEntry) (h : ∀ e ∈ s.reads, e.Follows s (f e)) :
      Effect F N s { s with reads := s.reads.map f }
  | dropReads (s : State) (p : ReadEntry → Bool) : Effect F N s { s with reads := s.reads.filter p }
  | headJob (s : State) (j k : Job) (js : List Job) (h : s.jobs = j :: js)
      (hk : k.window = j.window ∧ k.target = j.target ∧ k.running = j.running) : Effect F N s { s with jobs := k :: js }
  | popJob (s : State) : Effect F N s { s with jobs := s.jobs.tail }

/-- A sequence of effects. -/
def Effects (F : WinIx → LegIx → Prop) (N : Prop) : State → State → Prop := Relation.ReflTransGen (Effect F N)

/-- Every slot may fall. -/
def AnySlot : WinIx → LegIx → Prop := fun _ _ => True

section
variable {F : WinIx → LegIx → Prop} {N : Prop} {s t u : State}

theorem Effects.refl (s : State) : Effects F N s s := Relation.ReflTransGen.refl

theorem Effects.trans (h : Effects F N s t) (k : Effects F N t u) : Effects F N s u := Relation.ReflTransGen.trans h k

theorem Effects.one (h : Effect F N s t) : Effects F N s t := Relation.ReflTransGen.single h

theorem Effects.same (hw : t.windows = s.windows) (hs : t.store = s.store) (hf : t.writes = s.writes) (hr : t.reads = s.reads)
    (hj : t.jobs = s.jobs) (hl : t.legs = s.legs) : Effects F N s t := .one (.rest hw hs hf hr hj hl)

/-- A property that every effect keeps is kept by every sequence of effects. -/
theorem Effects.keep {P : State → Prop} (hP : ∀ s t, Effect F N s t → P s → P t) (h : Effects F N s t) (hs : P s) : P t := by
  induction h with
  | refl => exact hs
  | tail _ m ih => exact hP _ _ m ih

theorem Effects.foldl {α : Type} {f : State → α → State} (h : ∀ u a, Effects F N u (f u a)) (as : List α) (s : State) :
    Effects F N s (as.foldl f s) := by
  induction as generalizing s with
  | nil => exact .refl s
  | cons a as ih => exact (h s a).trans (ih _)

theorem Effects.ite {c : Prop} [Decidable c] (h : Effects F N s t) (k : Effects F N s u) : Effects F N s (if c then t else u) := by
  split
  · exact h
  · exact k

end

/-! ## What the effects keep -/

section
variable {F : WinIx → LegIx → Prop} {N : Prop} {s t : State}

/-- A leg that is not UP, with nothing unsent and nothing LIVE. -/
structure LegPort.Idle (p : LegPort) : Prop where
  state : p.state ≠ .up
  direct : p.direct = []
  lag : p.lag = []
  copy : p.copy = []
  flights : ∀ f ∈ p.inflight, f.condition ≠ .live

theorem map_orphan_idle {fs : List Flight} (h : ∀ f ∈ fs, f.condition ≠ .live) (own : Flight → Bool) :
    (fs.map fun f => if own f then f.orphan else f) = fs := by
  refine (List.map_congr_left fun f hf => ?_).trans (List.map_id fs)
  have horphan : f.orphan = f := if_neg (by simpa using h f hf)
  rw [horphan, ite_self]
  rfl

theorem LegEffect.idle {T : WinIx → Prop} {p q : LegPort} (h : LegEffect N T p q) (hp : p.Idle) : q = p := by
  obtain ⟨hstate, hdirect, hlag, hcopy, hflights⟩ := hp
  cases h with
  | filter fd fl fc own =>
    rw [map_orphan_idle hflights, hdirect, hlag, hcopy, List.filter_nil, List.filter_nil, List.filter_nil]
    cases p
    simp_all
  | enter q r hu hr => exact absurd hu hstate

theorem LegEffect.state {T : WinIx → Prop} {p q : LegPort} (h : LegEffect N T p q) : q.state = p.state := by
  cases h with
  | filter fd fl fc own => rfl
  | enter q r hu hr => cases q <;> rfl

/-- An effect changes at most one leg, and that as a leg effect. -/
theorem Effect.leg_cases (h : Effect F N s t) (k : LegIx) :
    t.leg k = s.leg k ∨ LegEffect N (fun w => Takes s w k) (s.leg k) (t.leg k) := by
  cases h
  case leg j p hp =>
    by_cases hj : j = k
    · subst hj
      rw [setLeg_leg_self]
      exact .inr hp
    · exact .inl (setLeg_leg_of_ne s p hj)
  case rest hw hs hf hr hj hl => exact .inl (by rw [State.leg, hl]; rfl)
  all_goals exact .inl rfl

theorem Effects.legState (h : Effects F N s t) (k : LegIx) : (t.leg k).state = (s.leg k).state := by
  refine h.keep (P := fun u => (u.leg k).state = (s.leg k).state) (fun a b hab ha => ?_) rfl
  rcases hab.leg_cases k with hk | hk
  · rw [hk, ha]
  · rw [hk.state, ha]

theorem Effects.idle {k : LegIx} (h : Effects F N s t) (hk : (s.leg k).Idle) : t.leg k = s.leg k := by
  refine h.keep (P := fun u => u.leg k = s.leg k) (fun a b hab ha => ?_) rfl
  rcases hab.leg_cases k with hb | hb
  · rw [hb, ha]
  · rw [hb.idle (ha ▸ hk), ha]

/-- What an effect does to the members of a window: they are the same, or those on one leg fall or become WHOLE. -/
theorem Effect.win_cases (h : Effect F N s t) (w : WinIx) :
    (t.win w).members = (s.win w).members ∨
    ∃ l, (∃ b, F w l ∧ (slotState s w l = some .current ∨ slotState s w l = some .rebuilding) ∧
        (t.win w).members = ((s.win w).withSlot l fun m => { m with state := some .stale, whole := m.whole || b }).members) ∨
      (t.win w).members = ((s.win w).withSlot l fun m => { m with whole := true }).members := by
  cases h
  case rest hw hs hf hr hj hl => exact .inl (by rw [State.win, hw]; rfl)
  case fall v l b hf hst =>
    by_cases hv : v = w
    · subst hv
      exact .inr ⟨l, .inl ⟨b, hf, hst, congrArg Window.members (setWin_win_self s v _)⟩⟩
    · exact .inl (congrArg Window.members (setWin_win_of_ne s _ hv))
  case whole v l hm =>
    by_cases hv : v = w
    · subst hv
      exact .inr ⟨l, .inr (congrArg Window.members (setWin_win_self s v _))⟩
    · exact .inl (congrArg Window.members (setWin_win_of_ne s _ hv))
  case rotate v n =>
    by_cases hv : v = w
    · subst hv
      exact .inl (by rw [setWin_win_self])
    · exact .inl (congrArg Window.members (setWin_win_of_ne s _ hv))
  all_goals exact .inl rfl

end

end Sys2Proof.Machine
end

section
/-! SUPPORT. What the effects keep of slots, store, trackers and jobs. -/

namespace Sys2Proof.Machine

open Sys2Proof.Safety

section
variable {F : WinIx → LegIx → Prop} {N : Prop} {s t : State}

/-! ## Slots -/

theorem takes_withSlot {x : Window} {l : LegIx} {f : Member → Member} (hf : ∀ m, (f m).leg = m.leg)
    (ht : ∀ m, (f m).takesWrites = true → m.takesWrites = true) {k : LegIx}
    (h : ∃ m ∈ (x.withSlot l f).members, m.leg = k ∧ m.takesWrites = true) : ∃ m ∈ x.members, m.leg = k ∧ m.takesWrites = true := by
  obtain ⟨m, hm, hk, hw⟩ := h
  obtain ⟨n, hn, rfl⟩ := List.mem_map.mp hm
  by_cases hl : n.leg = l
  · rw [if_pos hl] at hk hw
    exact ⟨n, hn, (hf n).symm.trans hk, ht n hw⟩
  · rw [if_neg hl] at hk hw
    exact ⟨n, hn, hk, hw⟩

/-- No effect lets a slot take writes that did not. -/
theorem Effect.takes (h : Effect F N s t) {w : WinIx} {k : LegIx} (ht : Takes t w k) : Takes s w k := by
  unfold Takes at ht
  rcases h.win_cases w with hm | ⟨l, ⟨b, -, -, hm⟩ | hm⟩
  · rwa [hm] at ht
  · rw [hm] at ht
    refine takes_withSlot (f := fun m => { m with state := some .stale, whole := m.whole || b }) (fun _ => rfl) (fun m hs => ?_) ht
    exact absurd hs Bool.false_ne_true
  · rw [hm] at ht
    exact takes_withSlot (f := fun m => { m with whole := true }) (fun _ => rfl) (fun _ hs => hs) ht

theorem Effects.takes (h : Effects F N s t) {w : WinIx} {k : LegIx} (ht : Takes t w k) : Takes s w k :=
  h.keep (P := fun u => Takes u w k → Takes s w k) (fun _ _ hab ha hb => ha (hab.takes hb)) id ht

/-- A slot of the window on the leg, with its WHOLE flag, as far as the effects change it. -/
theorem Effect.member_cases (h : Effect F N s t) (w : WinIx) (k : LegIx) :
    memberOf t w k = memberOf s w k ∨
    (F w k ∧ (slotState s w k = some .current ∨ slotState s w k = some .rebuilding) ∧
      ∃ b, memberOf t w k = (memberOf s w k).map fun m => { m with state := some .stale, whole := m.whole || b }) ∨
    memberOf t w k = (memberOf s w k).map fun m => { m with whole := true } := by
  have hfind (x : Window) (hx : (t.win w).members = x.members) : memberOf t w k = x.members.find? fun m => m.leg == k := by
    rw [memberOf, hx]
  rcases h.win_cases w with hm | ⟨l, ⟨b, hF, hst, hm⟩ | hm⟩
  · exact .inl (hfind _ hm)
  · rw [hfind _ hm, find_withSlot]
    · by_cases hk : k = l
      · subst hk
        exact .inr (.inl ⟨hF, hst, b, if_pos rfl⟩)
      · exact .inl (if_neg hk)
    · exact fun _ => rfl
  · rw [hfind _ hm, find_withSlot]
    · by_cases hk : k = l
      · exact .inr (.inr (if_pos hk))
      · exact .inl (if_neg hk)
    · exact fun _ => rfl

theorem Effect.slotState (h : Effect F N s t) (w : WinIx) (k : LegIx) : Machine.slotState t w k = Machine.slotState s w k ∨
    (F w k ∧ (Machine.slotState s w k = some .current ∨ Machine.slotState s w k = some .rebuilding) ∧
      Machine.slotState t w k = some .stale) := by
  rcases h.member_cases w k with hm | ⟨hF, hst, b, hm⟩ | hm
  · exact .inl (by rw [Machine.slotState, hm]; rfl)
  · refine .inr ⟨hF, hst, ?_⟩
    unfold Machine.slotState at hst ⊢
    rw [hm]
    generalize memberOf s w k = found at hst
    cases found with
    | none => rcases hst with hst | hst <;> cases hst
    | some m => rfl
  · refine .inl ?_
    rw [Machine.slotState, Machine.slotState, hm]
    cases memberOf s w k <;> rfl

/-- A slot keeps its state but that a CURRENT or REBUILDING one may fall STALE. -/
theorem Effects.slotState (h : Effects F N s t) (w : WinIx) (k : LegIx) : Machine.slotState t w k = Machine.slotState s w k ∨
    (F w k ∧ (Machine.slotState s w k = some .current ∨ Machine.slotState s w k = some .rebuilding) ∧
      Machine.slotState t w k = some .stale) := by
  refine h.keep (P := fun u => Machine.slotState u w k = Machine.slotState s w k ∨
    (F w k ∧ (Machine.slotState s w k = some .current ∨ Machine.slotState s w k = some .rebuilding) ∧
      Machine.slotState u w k = some .stale)) (fun a b hab ha => ?_) (.inl rfl)
  rcases hab.slotState w k with hb | ⟨hF, hst, hb⟩
  · rcases ha with ha | ⟨hF, hst, ha⟩
    · exact .inl (hb.trans ha)
    · exact .inr ⟨hF, hst, hb.trans ha⟩
  · rcases ha with ha | ⟨-, -, ha⟩
    · exact .inr ⟨hF, ha ▸ hst, hb⟩
    · rw [ha] at hst
      rcases hst with hst | hst <;> cases hst

theorem Effects.stale (h : Effects F N s t) {w : WinIx} {k : LegIx} (hs : Machine.slotState s w k = some .stale) :
    Machine.slotState t w k = some .stale := by
  rcases h.slotState w k with ht | ⟨-, -, ht⟩
  · exact ht.trans hs
  · exact ht

/-- The slot exists and is WHOLE. -/
def WholeSlot (s : State) (w : WinIx) (k : LegIx) : Prop := ∃ m, memberOf s w k = some m ∧ m.whole = true

theorem Effect.wholeSlot (h : Effect F N s t) {w : WinIx} {k : LegIx} (hs : WholeSlot s w k) : WholeSlot t w k := by
  obtain ⟨m, hm, hw⟩ := hs
  rcases h.member_cases w k with ht | ⟨-, -, b, ht⟩ | ht
  · exact ⟨m, ht.trans hm, hw⟩
  · refine ⟨_, by rw [ht, hm]; rfl, ?_⟩
    dsimp only
    rw [hw, Bool.true_or]
  · exact ⟨_, by rw [ht, hm]; rfl, rfl⟩

theorem Effects.wholeSlot (h : Effects F N s t) {w : WinIx} {k : LegIx} (hs : WholeSlot s w k) : WholeSlot t w k :=
  h.keep (fun _ _ hab ha => hab.wholeSlot ha) hs

theorem Effect.noMember (h : Effect F N s t) {w : WinIx} {k : LegIx} (hs : memberOf s w k = none) : memberOf t w k = none := by
  rcases h.member_cases w k with ht | ⟨-, -, b, ht⟩ | ht <;> rw [ht, hs]
  · rfl
  · rfl

theorem Effects.noMember (h : Effects F N s t) {w : WinIx} {k : LegIx} (hs : memberOf s w k = none) : memberOf t w k = none :=
  h.keep (fun _ _ hab ha => hab.noMember ha) hs

/-! ## The store -/

/-- The segment is recorded against the slot, or the slot is WHOLE (R31 step 2, R90). -/
def Marked (s : State) (w : WinIx) (k : LegIx) (g : Nat) : Prop :=
  { window := w, leg := k, segment := g } ∈ s.store ∨ WholeSlot s w k

/-- An effect keeps an entry of the store, or makes its slot WHOLE and frees the slot's entries. -/
theorem Effect.entry (h : Effect F N s t) {e : StaleEntry} (he : e ∈ s.store) : e ∈ t.store ∨ WholeSlot t e.window e.leg := by
  have hfree {w : WinIx} {l : LegIx} (hout : (e.window == w && e.leg == l) = false) :
      e ∈ s.store.filter fun e => !(e.window == w && e.leg == l) := List.mem_filter.mpr ⟨he, by rw [hout]; rfl⟩
  cases h
  case rest hw hs hf hr hj hl => exact .inl (by rw [hs]; exact he)
  case fall w l b hF hst =>
    cases b with
    | false => exact .inl he
    | true =>
      cases hout : e.window == w && e.leg == l
      · exact .inl (hfree hout)
      · rw [Bool.and_eq_true, beq_iff_eq, beq_iff_eq] at hout
        obtain ⟨rfl, rfl⟩ := hout
        obtain ⟨m, hm⟩ : ∃ m, memberOf s e.window e.leg = some m := by
          rcases hst with hst | hst <;> exact (Option.bind_eq_some_iff.mp hst).imp fun _ h => h.1
        refine .inr ⟨_, memberOf_withSlot (f := fun m => { m with state := some .stale, whole := m.whole || true }) (fun _ => rfl) hm, ?_⟩
        exact Bool.or_true _
  case whole w l hm =>
    cases hout : e.window == w && e.leg == l
    · exact .inl (hfree hout)
    · rw [Bool.and_eq_true, beq_iff_eq, beq_iff_eq] at hout
      obtain ⟨rfl, rfl⟩ := hout
      obtain ⟨m, hm⟩ := Option.isSome_iff_exists.mp hm
      exact .inr ⟨_, memberOf_withSlot (f := fun m => { m with whole := true }) (fun _ => rfl) hm, rfl⟩
  case insert w l g hm => exact .inl (mem_storeInsert.mpr (.inr he))
  all_goals exact .inl he

theorem Effects.marked (h : Effects F N s t) {w : WinIx} {k : LegIx} {g : Nat} (hs : Marked s w k g) : Marked t w k g :=
  h.keep (P := fun u => Marked u w k g) (fun _ _ hab ha => ha.elim hab.entry fun hw => .inr (hab.wholeSlot hw)) hs

/-- Nothing is recorded against the slot, and nothing can be: it is WHOLE or there is none. -/
def Unlisted (s : State) (w : WinIx) (k : LegIx) : Prop :=
  (∀ e ∈ s.store, ¬ (e.window = w ∧ e.leg = k)) ∧ (memberOf s w k = none ∨ WholeSlot s w k)

theorem Effect.newEntry (h : Effect F N s t) {e : StaleEntry} (he : e ∈ t.store) :
    e ∈ s.store ∨ ∃ m, memberOf s e.window e.leg = some m ∧ m.whole = false := by
  cases h
  case rest hw hs hf hr hj hl => exact .inl (by rwa [hs] at he)
  case fall w l b hF hst =>
    cases b with
    | false => exact .inl he
    | true => exact .inl (List.mem_of_mem_filter he)
  case whole w l hm => exact .inl (List.mem_of_mem_filter he)
  case insert w l g hm =>
    rcases mem_storeInsert.mp he with rfl | he
    · exact .inr hm
    · exact .inl he
  all_goals exact .inl he

theorem Effect.unlisted (h : Effect F N s t) {w : WinIx} {k : LegIx} (hs : Unlisted s w k) : Unlisted t w k := by
  obtain ⟨hno, hslot⟩ := hs
  refine ⟨fun e he hwk => ?_, hslot.imp h.noMember h.wholeSlot⟩
  rcases h.newEntry he with he | ⟨m, hm, hw⟩
  · exact hno e he hwk
  · obtain ⟨rfl, rfl⟩ := hwk
    rcases hslot with hslot | ⟨m', hm', hw'⟩
    · rw [hslot] at hm
      cases hm
    · rw [hm] at hm'
      cases hm'
      rw [hw] at hw'
      cases hw'

theorem Effects.unlisted (h : Effects F N s t) {w : WinIx} {k : LegIx} (hs : Unlisted s w k) : Unlisted t w k :=
  h.keep (fun _ _ hab ha => hab.unlisted ha) hs

end

end Sys2Proof.Machine
end

section
/-! SUPPORT. What the effects keep of trackers, queues and jobs. -/

namespace Sys2Proof.Machine

open Sys2Proof.Safety

section
variable {F : WinIx → LegIx → Prop} {N : Prop} {s t : State}

/-! ## Tracked writes -/

/-- What a tracked write was before an effect. -/
structure WriteEntry.From (s : State) (N : Prop) (e f : WriteEntry) : Prop where
  ref : f.ref = e.ref
  window : f.window = e.window
  acked : f.acked = e.acked
  owed : ∀ l ∈ f.owed, l ∈ e.owed ∨ (N → ∀ w, e.window = some w → Takes s w l)
  legAddrs : f.legAddrs = e.legAddrs ∨ ∃ w, (N → e.window = some w) ∧ f.legAddrs = translations (s.win w) e.addr

theorem WriteEntry.From.refl (s : State) (e : WriteEntry) : e.From s N e := ⟨rfl, rfl, rfl, fun _ h => .inl h, .inl rfl⟩

theorem Effect.write_from (h : Effect F N s t) {f : WriteEntry} (hf : f ∈ t.writes) : ∃ e ∈ s.writes, e.From s N f := by
  cases h
  case rest hw hs hwr hr hj hl => exact ⟨f, hwr ▸ hf, .refl s f⟩
  case mapWrites g hg =>
    obtain ⟨e, he, rfl⟩ := List.mem_map.mp hf
    obtain ⟨href, hwin, howed, hacked, haddrs⟩ := hg e he
    exact ⟨e, he, href, hwin, hacked, fun l hl => .inl (howed l hl), haddrs⟩
  case dropWrites p => exact ⟨f, List.mem_of_mem_filter hf, .refl s f⟩
  case owe n k hk =>
    obtain ⟨e, he, rfl⟩ := List.mem_map.mp hf
    by_cases hn : e.ref = n
    · rw [if_pos (beq_iff_eq.mpr hn)]
      refine ⟨e, he, rfl, rfl, rfl, fun l hl => ?_, .inl rfl⟩
      by_cases hlk : l = k
      · subst hlk
        exact .inr fun hN => hk hN e he hn
      · refine .inl ?_
        unfold legInsert at hl
        split at hl
        · exact hl
        · simpa [hlk] using hl
    · rw [if_neg (mt beq_iff_eq.mp hn)]
      exact ⟨e, he, .refl s e⟩
  all_goals exact ⟨f, hf, .refl s f⟩

theorem Effect.refs (h : Effect F N s t) : (t.writes.map (·.ref)).Sublist (s.writes.map (·.ref)) := by
  cases h
  case rest hw hs hwr hr hj hl => rw [hwr]
  case mapWrites g hg =>
    have hrefs : s.writes.map ((fun x => x.ref) ∘ g) = s.writes.map (·.ref) := List.map_congr_left fun e he => (hg e he).ref
    rw [List.map_map, hrefs]
  case dropWrites p => exact List.filter_sublist.map _
  case owe n k hk =>
    rw [List.map_map, List.map_congr_left (g := fun e => e.ref)]
    exact fun e _ => by dsimp only [Function.comp_apply]; split <;> rfl
  all_goals exact List.Sublist.refl _

theorem Effects.nodup (h : Effects F N s t) (hs : (s.writes.map (·.ref)).Nodup) : (t.writes.map (·.ref)).Nodup :=
  h.keep (P := fun u => (u.writes.map (·.ref)).Nodup) (fun _ _ hab ha => hab.refs.nodup ha) hs

/-- The entries with reference `n` are of window `w`. -/
def RefOf (s : State) (n : Nat) (w : WinIx) : Prop := ∀ e ∈ s.writes, e.ref = n → e.window = some w

theorem Effects.refOf (h : Effects F N s t) {n : Nat} {w : WinIx} (hs : RefOf s n w) : RefOf t n w := by
  refine h.keep (P := fun u => RefOf u n w) (fun a b hab ha f hf hn => ?_) hs
  obtain ⟨e, he, hfrom⟩ := hab.write_from hf
  rw [hfrom.window]
  exact ha e he (hfrom.ref.symm.trans hn)

theorem refOf_of_find {n : Nat} {w : WinIx} {e : WriteEntry} (hn : (s.writes.map (·.ref)).Nodup) (h : findWrite s n = some e)
    (hw : e.window = some w) : RefOf s n w := by
  intro f hf hfn
  have hmem : e ∈ s.writes := List.mem_of_find?_eq_some h
  have heq : f = e := List.inj_on_of_nodup_map hn hf hmem (hfn.trans (findWrite_ref h).symm)
  rw [heq]
  exact hw

/-- No tracked write of the window owes the leg. -/
def NotOwed (s : State) (w : WinIx) (l : LegIx) : Prop := ∀ e ∈ s.writes, e.window = some w → l ∉ e.owed

theorem Effects.notOwed (h : Effects F N s t) (hN : N) {w : WinIx} {l : LegIx} (ht : ¬ Takes s w l) (hs : NotOwed s w l) :
    NotOwed t w l := by
  refine (h.keep (P := fun u => ¬ Takes u w l ∧ NotOwed u w l) (fun a b hab ha => ?_) ⟨ht, hs⟩).2
  obtain ⟨hta, hna⟩ := ha
  refine ⟨fun hb => hta (hab.takes hb), fun f hf hw hl => ?_⟩
  obtain ⟨e, he, hfrom⟩ := hab.write_from hf
  have hew : e.window = some w := hfrom.window.symm.trans hw
  rcases hfrom.owed l hl with howed | htakes
  · exact hna e he hew howed
  · exact hta (htakes hN w hew)

/-- No tracked write of the window counts the leg. -/
def NotAcked (s : State) (w : WinIx) (l : LegIx) : Prop := ∀ e ∈ s.writes, e.window = some w → l ∉ e.acked

theorem Effects.notAcked (h : Effects F N s t) {w : WinIx} {l : LegIx} (hs : NotAcked s w l) : NotAcked t w l := by
  refine h.keep (P := fun u => NotAcked u w l) (fun a b hab ha f hf hw => ?_) hs
  obtain ⟨e, he, hfrom⟩ := hab.write_from hf
  rw [hfrom.acked]
  exact ha e he (hfrom.window.symm.trans hw)

/-- No tracked write of the window has an address on the leg. -/
def NoWriteAddr (s : State) (w : WinIx) (l : LegIx) : Prop := ∀ e ∈ s.writes, e.window = some w → addrOn e.legAddrs l = none

theorem addrOn_translations {w : WinIx} {l : LegIx} (h : memberOf s w l = none) (a : Nat) : addrOn (translations (s.win w) a) l = none := by
  rw [memberOf_eq_none] at h
  simp only [addrOn, translations, Option.map_eq_none_iff, List.find?_eq_none, List.mem_map]
  rintro p ⟨m, hm, rfl⟩
  simpa using h m hm

theorem Effects.noWriteAddr (h : Effects F N s t) (hN : N) {w : WinIx} {l : LegIx} (hm : memberOf s w l = none) (hs : NoWriteAddr s w l) :
    NoWriteAddr t w l := by
  refine (h.keep (P := fun u => memberOf u w l = none ∧ NoWriteAddr u w l) (fun a b hab ha => ?_) ⟨hm, hs⟩).2
  obtain ⟨hma, hna⟩ := ha
  refine ⟨hab.noMember hma, fun f hf hw => ?_⟩
  obtain ⟨e, he, hfrom⟩ := hab.write_from hf
  have hew : e.window = some w := hfrom.window.symm.trans hw
  rcases hfrom.legAddrs with haddr | ⟨v, hv, haddr⟩
  · rw [haddr]
    exact hna e he hew
  · have hvw : v = w := Option.some.inj ((hv hN).symm.trans hew)
    rw [haddr, hvw]
    exact addrOn_translations hma _

/-! ## Tracked reads -/

theorem ReadEntry.Follows.refl (s : State) (e : ReadEntry) : e.Follows s e := ⟨rfl, rfl, rfl, .inl rfl⟩

theorem Effect.read_from (h : Effect F N s t) {f : ReadEntry} (hf : f ∈ t.reads) : ∃ e ∈ s.reads, e.Follows s f := by
  cases h
  case rest hw hs hwr hr hj hl => exact ⟨f, hr ▸ hf, .refl s f⟩
  case mapReads g hg =>
    obtain ⟨e, he, rfl⟩ := List.mem_map.mp hf
    exact ⟨e, he, hg e he⟩
  case dropReads p => exact ⟨f, List.mem_of_mem_filter hf, .refl s f⟩
  all_goals exact ⟨f, hf, .refl s f⟩

/-- No tracked read of the window has an address on the leg. -/
def NoReadAddr (s : State) (w : WinIx) (l : LegIx) : Prop := ∀ e ∈ s.reads, e.window = some w → addrOn e.legAddrs l = none

theorem Effects.noReadAddr (h : Effects F N s t) {w : WinIx} {l : LegIx} (hs : NoReadAddr s w l) : NoReadAddr t w l := by
  refine h.keep (P := fun u => NoReadAddr u w l) (fun a b hab ha f hf hw => ?_) hs
  obtain ⟨e, he, -, hwin, haddr, -⟩ := hab.read_from hf
  rw [haddr]
  exact ha e he (hwin.symm.trans hw)

/-- The tracked reads on the leg have their references in `left`. -/
def OnLegOnly (s : State) (l : LegIx) (left : List Nat) : Prop := ∀ e ∈ s.reads, e.current = some l → e.ref ∈ left

/-- A leg that is not UP is joined by no read. -/
theorem Effects.onLegOnly (h : Effects F N s t) {l : LegIx} (hl : (s.leg l).state ≠ .up) {left : List Nat} (hs : OnLegOnly s l left) :
    OnLegOnly t l left := by
  refine (h.keep (P := fun u => (u.leg l).state ≠ .up ∧ OnLegOnly u l left) (fun a b hab ha => ?_) ⟨hl, hs⟩).2
  obtain ⟨hup, hoff⟩ := ha
  refine ⟨(Effects.one hab).legState l ▸ hup, fun f hf hcur => ?_⟩
  obtain ⟨e, he, href, -, -, hc | hc | ⟨k, hc, hk⟩⟩ := hab.read_from hf
  · rw [href]
    exact hoff e he (hc.symm.trans hcur)
  · rw [hc] at hcur
    cases hcur
  · rw [hc] at hcur
    cases hcur
    exact absurd hk hup

/-! ## Queues -/

/-- No unsent write of the window waits on the leg. -/
def NoneQueued (s : State) (w : WinIx) (l : LegIx) : Prop :=
  ∀ r ∈ (s.leg l).direct ++ (s.leg l).lag, r.isWriteOf w = false

theorem LegEffect.queued {T : WinIx → Prop} {p q : LegPort} (h : LegEffect N T p q) (hN : N) {w : WinIx} (hT : ¬ T w)
    (hp : ∀ r ∈ p.direct ++ p.lag, r.isWriteOf w = false) : ∀ r ∈ q.direct ++ q.lag, r.isWriteOf w = false := by
  cases h with
  | filter fd fl fc own =>
    intro r hr
    refine hp r ?_
    rw [List.mem_append] at hr ⊢
    exact hr.imp List.mem_of_mem_filter List.mem_of_mem_filter
  | enter q r hu hr =>
    have hnew : r.isWriteOf w = false := Bool.eq_false_iff.mpr fun hw => hT (hr hN w hw)
    intro x hx
    simp only [List.mem_append] at hp hx
    cases q <;> simp only [LegPort.setQueue, LegPort.queue, List.mem_append, List.mem_singleton] at hx
    · rcases hx with (hx | rfl) | hx
      · exact hp x (.inl hx)
      · exact hnew
      · exact hp x (.inr hx)
    · rcases hx with hx | hx | rfl
      · exact hp x (.inl hx)
      · exact hp x (.inr hx)
      · exact hnew
    · exact hp x hx

theorem Effects.noneQueued (h : Effects F N s t) (hN : N) {w : WinIx} {l : LegIx} (ht : ¬ Takes s w l) (hs : NoneQueued s w l) :
    NoneQueued t w l := by
  refine (h.keep (P := fun u => ¬ Takes u w l ∧ NoneQueued u w l) (fun a b hab ha => ?_) ⟨ht, hs⟩).2
  obtain ⟨hta, hna⟩ := ha
  refine ⟨fun hb => hta (hab.takes hb), ?_⟩
  rcases hab.leg_cases l with hleg | hleg
  · unfold NoneQueued
    rw [hleg]
    exact hna
  · exact hleg.queued hN hta hna

/-! ## Jobs -/

theorem Effect.job_from (h : Effect F N s t) {k : Job} (hk : k ∈ t.jobs) :
    ∃ j ∈ s.jobs, k.window = j.window ∧ k.target = j.target := by
  cases h
  case rest hw hs hwr hr hj hl => exact ⟨k, hj ▸ hk, rfl, rfl⟩
  case headJob i j js hi hsame =>
    rcases List.mem_cons.mp hk with rfl | hk
    · exact ⟨i, by rw [hi]; exact List.mem_cons_self .., hsame.1, hsame.2.1⟩
    · exact ⟨k, by rw [hi]; exact List.mem_cons_of_mem _ hk, rfl, rfl⟩
  case popJob => exact ⟨k, List.mem_of_mem_tail hk, rfl, rfl⟩
  all_goals exact ⟨k, hk, rfl, rfl⟩

/-- No job is for the slot. -/
def NoJob (s : State) (w : WinIx) (l : LegIx) : Prop := ∀ j ∈ s.jobs, ¬ (j.window = w ∧ j.target = l)

theorem Effects.noJob (h : Effects F N s t) {w : WinIx} {l : LegIx} (hs : NoJob s w l) : NoJob t w l := by
  refine h.keep (P := fun u => NoJob u w l) (fun a b hab ha k hk hwl => ?_) hs
  obtain ⟨j, hj, hwin, htarget⟩ := hab.job_from hk
  exact ha j hj ⟨hwin.symm.trans hwl.1, htarget.symm.trans hwl.2⟩

end

end Sys2Proof.Machine
end

section
/-! SUPPORT. Demotions, releases and steering as sequences of effects (R28 to R33, R48 to R62, R74 to R83, R119 to R124). -/

namespace Sys2Proof.Machine

open Sys2Proof.Safety

section
variable {F : WinIx → LegIx → Prop} {N : Prop}

/-! ## Small updates -/

theorem post_effects (s : State) (r : EventRec) : Effects F N s (post r s) := .same rfl rfl rfl rfl rfl rfl
theorem raise_effects (s : State) : Effects F N s s.raise := .same rfl rfl rfl rfl rfl rfl
theorem raiseHead_effects (s : State) : Effects F N s s.raiseHead := .same rfl rfl rfl rfl rfl rfl
theorem raiseWork_effects (s : State) : Effects F N s s.raiseWork := .same rfl rfl rfl rfl rfl rfl
theorem pushAnswers_effects (s : State) (as : List AnswerItem) : Effects F N s (pushAnswers as s) := .same rfl rfl rfl rfl rfl rfl
theorem pushAnswer_effects (s : State) (a : AnswerItem) : Effects F N s (pushAnswer a s) := .same rfl rfl rfl rfl rfl rfl
theorem count_effects (s : State) (l : LegIx) (k : Counter) : Effects F N s (count l k s) := .same rfl rfl rfl rfl rfl rfl

theorem modWrite_effects (s : State) (r : Nat) (f : WriteEntry → WriteEntry) (h : ∀ e ∈ s.writes, e.ref = r → e.Follows s N (f e)) :
    Effects F N s (modWrite r f s) := by
  refine .one (.mapWrites s _ fun e he => ?_)
  split
  next hr => exact h e he (beq_iff_eq.mp hr)
  next => exact ⟨rfl, rfl, fun _ hl => hl, rfl, .inl rfl⟩

theorem modRead_effects (s : State) (r : Nat) (f : ReadEntry → ReadEntry) (h : ∀ e : ReadEntry, e.Follows s (f e)) : Effects F N s (modRead r f s) := by
  refine .one (.mapReads s _ fun e _ => ?_)
  split
  · exact h e
  · exact .refl s e

theorem modJob_effects (s : State) (f : Job → Job) (h : ∀ j, (f j).window = j.window ∧ (f j).target = j.target ∧ (f j).running = j.running) :
    Effects F N s (modJob f s) := by
  unfold modJob
  split
  next j js hj => exact .ite (.one (.headJob s j (f j) js hj (h j))) (.refl s)
  · exact .refl s

theorem filterLeg_effects (s : State) (l : LegIx) (fd fl fc : LegRequest → Bool) (own : Flight → Bool) :
    Effects F N s (s.setLeg l { s.leg l with
      direct := (s.leg l).direct.filter fd, lag := (s.leg l).lag.filter fl, copy := (s.leg l).copy.filter fc
      inflight := (s.leg l).inflight.map fun f => if own f then f.orphan else f }) :=
  .one (.leg s l _ (.filter _ fd fl fc own))

theorem map_no_orphan (fs : List Flight) : (fs.map fun f => if false = true then f.orphan else f) = fs := by simp

/-- Unsent requests go from a leg's direct queue. -/
theorem filterDirect_effects (s : State) (l : LegIx) (p : LegRequest → Bool) :
    Effects F N s (modLeg l (fun q => { q with direct := q.direct.filter p }) s) := by
  have h := filterLeg_effects (F := F) (N := N) s l p (fun _ => true) (fun _ => true) fun _ => false
  simp only [List.filter_true, map_no_orphan] at h
  exact h

/-- Unsent requests go from a leg's copy channel. -/
theorem filterCopy_effects (s : State) (l : LegIx) (p : LegRequest → Bool) :
    Effects F N s (modLeg l (fun q => { q with copy := q.copy.filter p }) s) := by
  have h := filterLeg_effects (F := F) (N := N) s l (fun _ => true) (fun _ => true) p fun _ => false
  simp only [List.filter_true, map_no_orphan] at h
  exact h

theorem orphanWhere_effects (s : State) (l : LegIx) (own : Owner → Bool) : Effects F N s (orphanWhere l own s) := by
  have h := filterLeg_effects (F := F) (N := N) s l (fun _ => true) (fun _ => true) (fun _ => true) fun f => f.owner.any own
  simp only [List.filter_true] at h
  exact h

theorem discardWrites_effects (s : State) (w : WinIx) (l : LegIx) : Effects F N s (discardWrites w l s) := by
  have h := filterLeg_effects (F := F) (N := N) s l (fun r => !r.isWriteOf w) (fun r => !r.isWriteOf w) (fun _ => true) fun _ => false
  simp only [List.filter_true, map_no_orphan] at h
  exact h.trans (raise_effects _)

theorem addStale_effects (s : State) (w : WinIx) (l : LegIx) (g : Nat) : Effects F N s (addStale w l g s) := by
  unfold addStale
  split
  next m hm =>
    split
    · exact .refl s
    next hopen =>
      refine .ite (.refl s) (.ite (.one (.insert s w l g ⟨m, hm, ?_⟩)) ?_)
      · rw [Bool.or_eq_true, not_or] at hopen
        exact Bool.eq_false_iff.mpr hopen.2
      · rw [modMember_withSlot]
        exact (Effects.one (.whole s w l (by rw [hm]; rfl))).trans (post_effects _ _)
  · exact .refl s

/-! ## Answers -/

theorem answerWrite_effects (s : State) (r : Nat) (a : Answer) : Effects F N s (answerWrite r a s) := by
  unfold answerWrite
  split
  · exact .ite (.refl s) ((modWrite_effects s _ _ (by intro e _ _; exact ⟨rfl, rfl, fun _ hl => hl, rfl, .inl rfl⟩)).trans (pushAnswer_effects _ _))
  · exact .refl s

theorem retireWrite_effects (s : State) (r : Nat) : Effects F N s (retireWrite r s) := by
  unfold retireWrite
  split
  · exact .ite ((Effects.one (.dropWrites s _)).trans (raise_effects _)) (.refl s)
  · exact .refl s

theorem decideEmptied_effects (s : State) (r : Nat) : Effects F N s (decideEmptied r s) := by
  unfold decideEmptied
  split
  · refine .ite ?_ (.refl s)
    split <;> exact (answerWrite_effects _ _ _).trans (retireWrite_effects _ _)
  · exact .refl s

theorem decideAll_effects (s : State) (rs : List Nat) : Effects F N s (decideAll rs s) :=
  .foldl (f := fun s r => decideEmptied r s) decideEmptied_effects rs s

theorem mem_of_legErase {l k : LegIx} {ls : List LegIx} (h : k ∈ legErase l ls) : k ∈ ls := List.mem_of_mem_filter h

theorem clearOwed_effects (s : State) (r : Nat) (l : LegIx) : Effects F N s (clearOwed r l s) :=
  (modWrite_effects s r _ (by intro e _ _; exact ⟨rfl, rfl, fun _ hk => mem_of_legErase hk, rfl, .inl rfl⟩)).trans (raiseWork_effects _)

theorem clearAndRecord_effects (s : State) (w : WinIx) (l : LegIx) (es : List WriteEntry) : Effects F N s (clearAndRecord w l es s) := by
  induction es generalizing s with
  | nil => exact .refl s
  | cons e es ih =>
    refine Effects.trans ?_ (ih _)
    split
    · exact (clearOwed_effects _ _ _).trans (addStale_effects _ _ _ _)
    · exact clearOwed_effects _ _ _

theorem clearPassLeg_effects (s : State) (l : LegIx) : Effects F N s (clearPassLeg l s) :=
  .foldl (fun u n => (clearOwed_effects u n l).trans (decideEmptied_effects _ n)) _ s

/-! ## The running job -/

theorem abandonOn_effects (s : State) (l : LegIx) : Effects F N s (abandonOn s l) := by
  have h : Effects F N s (orphanWhere l Owner.isChunk (modLeg l (fun p => { p with copy := p.copy.filter fun r => !r.isChunk }) s)) :=
    (filterCopy_effects s l _).trans (orphanWhere_effects _ _ _)
  exact .ite (h.trans (raise_effects _)) h

theorem abandonChunks_effects (s : State) : Effects F N s (abandonChunks s) := by
  unfold abandonChunks
  have h : Effects F N s (allLegs.foldl abandonOn s) := .foldl abandonOn_effects allLegs s
  generalize allLegs.foldl abandonOn s = u at h ⊢
  exact h.trans ((modJob_effects u _ (by intro j; exact ⟨rfl, rfl, rfl⟩)).trans (raiseWork_effects _))

theorem markReleased_effects (s : State) : Effects F N s (markReleased s) := by
  refine (Effects.one (.mapWrites s _ fun e _ => ?_)).trans (raiseHead_effects _)
  split <;> exact ⟨rfl, rfl, fun _ hl => hl, rfl, .inl rfl⟩

theorem abortJob_effects (s : State) : Effects F N s (abortJob s) := by
  unfold abortJob
  split
  · exact (abandonChunks_effects s).trans ((Effects.one (.popJob _)).trans (markReleased_effects _))
  · exact .refl s

theorem takeSource_effects (s : State) : Effects F N s (takeSource s) := by
  unfold takeSource
  split
  · exact (modJob_effects s _ (by intro j; exact ⟨rfl, rfl, rfl⟩)).trans (raiseWork_effects _)
  · exact .refl s

theorem restartPass_effects (s : State) : Effects F N s (restartPass s) :=
  (abandonChunks_effects s).trans ((modJob_effects _ _ (by intro j; exact ⟨rfl, rfl, rfl⟩)).trans (takeSource_effects _))

theorem loseSource_effects (s : State) (l : LegIx) : Effects F N s (loseSource l s) := .ite (restartPass_effects s) (.refl s)

/-! ## Demotions -/

theorem postChange_effects (s : State) (w : WinIx) (old new : Option Health) : Effects F N s (postChange w old new s) := by
  unfold postChange
  split
  · exact .ite (.refl s) (post_effects _ _)
  · exact .refl s

/-- The slot falls, its entries freed if it is set WHOLE: the first step of a demotion (R31, R33). -/
def fallen (s : State) (w : WinIx) (l : LegIx) (b : Bool) : State :=
  { s.setWin w ((s.win w).withSlot l fun m => { m with state := some .stale, whole := m.whole || b }) with
    store := if b then s.store.filter fun e => !(e.window == w && e.leg == l) else s.store
    notice := Notice.full }

theorem fallen_effects (s : State) {w : WinIx} {l : LegIx} (b : Bool) (hF : F w l)
    (h : slotState s w l = some .current ∨ slotState s w l = some .rebuilding) : Effects F N s (fallen s w l b) :=
  (Effects.one (.fall s w l b hF h)).trans (.same rfl rfl rfl rfl rfl rfl)

/-- The steps of a demotion up to the clearing of the owed sets and the discard (R31 steps 1 to 3). -/
def cleared (s : State) (w : WinIx) (l : LegIx) (b : Bool) : State :=
  discardWrites w l (clearAndRecord w l (s.writes.filter fun e => e.window == some w && e.owed.contains l) (fallen s w l b))

theorem cleared_effects (s : State) {w : WinIx} {l : LegIx} (b : Bool) (hF : F w l)
    (h : slotState s w l = some .current ∨ slotState s w l = some .rebuilding) : Effects F N s (cleared s w l b) :=
  (fallen_effects s b hF h).trans ((clearAndRecord_effects _ _ _ _).trans (discardWrites_effects _ _ _))

/-- The references of the entries that a demotion leaves owing nothing. -/
def emptiedBy (s : State) (w : WinIx) (l : LegIx) : List Nat :=
  ((s.writes.filter fun e => e.window == some w && e.owed.contains l).filter fun e => e.owed.all fun k => k == l).map (·.ref)

section
variable {issue : State → State} {s : State} {w : WinIx} {l : LegIx} {c : MemberCause} {jc : JobCause} {b : Bool}

theorem fallen_eq : (if b then freeSlot w l (modMember w l (fun m => { m with state := some .stale, whole := m.whole || b }) s).raise
    else (modMember w l (fun m => { m with state := some .stale, whole := m.whole || b }) s).raise) = fallen s w l b := by
  rw [modMember_withSlot]
  cases b <;> rfl

theorem demoteOne_rests (h1 : slotState s w l ≠ some .current) (h2 : slotState s w l ≠ some .rebuilding) :
    demoteOne issue w l c jc b s = s := by
  refine if_neg ?_
  rw [Bool.or_eq_true, beq_iff_eq, beq_iff_eq]
  exact not_or.mpr ⟨h1, h2⟩

/-- A demotion of a CURRENT slot. -/
theorem demoteOne_current (h : slotState s w l = some .current) :
    let V := if isSource (cleared s w l b) w l then restartPass (cleared s w l b) else cleared s w l b
    demoteOne issue w l c jc b s = postChange w (healthOf (s.win w)) (healthOf (V.win w))
      (post (.memberChange w l c (some .stale)) (decideAll (emptiedBy s w l) V)) := by
  unfold demoteOne
  simp only [h, fallen_eq, beq_self_eq_true, Bool.true_or, if_true, Option.some.injEq, reduceCtorEq, beq_iff_eq, if_false,
    Option.isSome_none, Bool.false_eq_true]
  rfl

/-- A demotion of a REBUILDING slot, its job running. -/
theorem demoteOne_rebuilding (h : slotState s w l = some .rebuilding) {j : Job} (hj : runningJob s = some j) :
    demoteOne issue w l c jc b s = postChange w (healthOf (s.win w)) (healthOf ((abortJob (cleared s w l b)).win w))
      (post (.memberChange w l c (some .stale)) (post (.jobEnded j.window j.target jc j.number)
        (decideAll (emptiedBy s w l) (issue (abortJob (cleared s w l b)))))) := by
  unfold demoteOne
  simp only [h, hj, fallen_eq, beq_self_eq_true, Bool.or_true, if_true, Option.isSome_some]
  rfl

/-- A demotion of a REBUILDING slot without a running job. -/
theorem demoteOne_idle (h : slotState s w l = some .rebuilding) (hj : runningJob s = none) :
    let V := if isSource (cleared s w l b) w l then restartPass (cleared s w l b) else cleared s w l b
    demoteOne issue w l c jc b s = postChange w (healthOf (s.win w)) (healthOf (V.win w))
      (post (.memberChange w l c (some .stale)) (decideAll (emptiedBy s w l) V)) := by
  unfold demoteOne
  simp only [h, hj, fallen_eq, beq_self_eq_true, Bool.or_true, if_true, Option.isSome_none, Bool.false_eq_true, if_false]
  rfl

end

end

end Sys2Proof.Machine
end

section
/-! SUPPORT. Demotions, releases and steering as sequences of effects: the operations made of those of the file before. -/

namespace Sys2Proof.Machine

open Sys2Proof.Safety

section
variable {F : WinIx → LegIx → Prop} {N : Prop}

/-- Where `N` holds, the references of the tracked writes are told apart. -/
def RefsApart (N : Prop) (s : State) : Prop := N → (s.writes.map (·.ref)).Nodup

theorem Effects.refsApart {s t : State} (h : Effects F N s t) (hs : RefsApart N s) : RefsApart N t := fun hN => h.nodup (hs hN)

/-! ## Demotions -/

/-- What follows the clearing and the discard in a demotion, for whatever takes the released writes, if that is effects too. -/
theorem demoteOne_of_cleared {issue : State → State} (hi : ∀ u, RefsApart N u → Effects F N u (issue u)) {s : State} {w : WinIx} {l : LegIx}
    {b : Bool} (hs : RefsApart N (cleared s w l b)) (h : slotState s w l = some .current ∨ slotState s w l = some .rebuilding)
    (c : MemberCause) (jc : JobCause) : Effects F N (cleared s w l b) (demoteOne issue w l c jc b s) := by
  have plain : Effects F N (cleared s w l b)
      (if isSource (cleared s w l b) w l then restartPass (cleared s w l b) else cleared s w l b) := .ite (restartPass_effects _) (.refl _)
  have done {v : State} (h : Effects F N (cleared s w l b) v) (rs : List Nat) : Effects F N (cleared s w l b) (decideAll rs v) :=
    h.trans (decideAll_effects v rs)
  rcases h with h | h
  · rw [demoteOne_current h]
    exact (done plain _).trans ((post_effects _ _).trans (postChange_effects _ _ _ _))
  · cases hj : runningJob s with
    | none =>
      rw [demoteOne_idle h hj]
      exact (done plain _).trans ((post_effects _ _).trans (postChange_effects _ _ _ _))
    | some j =>
      have habort : Effects F N (cleared s w l b) (abortJob (cleared s w l b)) := abortJob_effects _
      rw [demoteOne_rebuilding h hj]
      exact (done (habort.trans (hi _ (habort.refsApart hs))) _).trans
        ((post_effects _ _).trans ((post_effects _ _).trans (postChange_effects _ _ _ _)))

theorem demoteOne_effects {issue : State → State} (hi : ∀ u, RefsApart N u → Effects F N u (issue u)) {s : State} (hs : RefsApart N s)
    {w : WinIx} {l : LegIx} (hF : F w l) (c : MemberCause) (jc : JobCause) (b : Bool) : Effects F N s (demoteOne issue w l c jc b s) := by
  by_cases h : slotState s w l = some .current ∨ slotState s w l = some .rebuilding
  · have hclear : Effects F N s (cleared s w l b) := cleared_effects s b hF h
    exact hclear.trans (demoteOne_of_cleared hi (hclear.refsApart hs) h c jc)
  · obtain ⟨h1, h2⟩ := not_or.mp h
    rw [demoteOne_rests h1 h2]
    exact .refl s

theorem lostTarget_effects {issue : State → State} (hi : ∀ u, RefsApart N u → Effects AnySlot N u (issue u)) {s : State}
    (hs : RefsApart N s) (w : WinIx) : Effects AnySlot N s (lostTarget issue w s) := by
  unfold lostTarget
  split
  · exact .ite (demoteOne_effects hi hs trivial _ _ _) (.refl s)
  · exact .refl s

theorem demoteWith_effects {issue : State → State} (hi : ∀ u, RefsApart N u → Effects AnySlot N u (issue u)) {s : State}
    (hs : RefsApart N s) (w : WinIx) (l : LegIx) (c : MemberCause) (jc : JobCause) :
    Effects AnySlot N s (demoteWith issue w l c jc s) := by
  have h : Effects AnySlot N s (demoteOne issue w l c jc false s) := demoteOne_effects hi hs trivial c jc false
  exact h.trans (lostTarget_effects hi (h.refsApart hs) w)

theorem demoteHolding_effects {s : State} (hs : RefsApart N s) (w : WinIx) (l : LegIx) (c : MemberCause) (jc : JobCause) :
    Effects AnySlot N s (demoteHolding w l c jc s) := demoteWith_effects (fun u _ => .refl u) hs w l c jc

/-! ## Placing and issue -/

theorem withdrawRead_effects (l : LegIx) (s : State) (r : LegRequest) : Effects F N s (withdrawRead l s r) := by
  unfold withdrawRead
  split
  · exact modRead_effects s _ _ (by intro e; exact ⟨rfl, rfl, rfl, .inr (.inl rfl)⟩)
  · exact .refl s
  · exact .refl s

theorem withdrawReads_effects (s : State) (l : LegIx) (a n : Nat) : Effects F N s (withdrawReads l a n s) :=
  .ite (.refl s) ((filterDirect_effects s l _).trans ((Effects.foldl (withdrawRead_effects l) _ _).trans (raise_effects _)))

theorem withdrawChunks_effects (s : State) (l : LegIx) (a n : Nat) : Effects F N s (withdrawChunks l a n s) := by
  unfold withdrawChunks
  split
  · exact .refl s
  · exact (filterCopy_effects s l _).trans ((modJob_effects _ _ (by intro j; exact ⟨rfl, rfl, rfl⟩)).trans (raise_effects _))

theorem enqueue_effects (s : State) (l : LegIx) (q : QueueName) (k : ReqKind) (a n : Nat) (d : List Byte) (o : Owner)
    (h : N → k = .write → ∀ r w, o = .write r (some w) → Takes s w l) : Effects F N s (enqueue l q k a n d o s) := by
  by_cases hc : canEnter s l q = true
  · rw [enqueue_of_canEnter hc]
    refine .one (.leg s l _ (.enter _ q _ (canEnter_iff.mp hc).1 fun hN w hw => ?_))
    rw [LegRequest.isWriteOf, Bool.and_eq_true, beq_iff_eq, beq_iff_eq] at hw
    obtain ⟨hk, hw⟩ := hw
    unfold LegRequest.writeWindow at hw
    cases o with
    | write r v =>
      cases hw
      exact h hN hk r w rfl
    | read r => cases hw
    | chunk j c => cases hw
  · unfold enqueue
    rw [if_neg hc]
    exact .refl s

theorem enqueue_windows (s : State) (l : LegIx) (q : QueueName) (k : ReqKind) (a n : Nat) (d : List Byte) (o : Owner) :
    (enqueue l q k a n d o s).windows = s.windows := by
  unfold enqueue
  split <;> rfl

theorem enqueue_writes (s : State) (l : LegIx) (q : QueueName) (k : ReqKind) (a n : Nat) (d : List Byte) (o : Owner) :
    (enqueue l q k a n d o s).writes = s.writes := by
  unfold enqueue
  split <;> rfl

/-- The withdrawals of a placement leave the windows alone. -/
theorem readsCleared_windows (s : State) (l : LegIx) (a n : Nat) : (readsCleared l a n s).windows = s.windows := by
  have hread (u : State) (r : LegRequest) : (withdrawRead l u r).windows = u.windows := by
    unfold withdrawRead
    split <;> rfl
  have hreads (rs : List LegRequest) (u : State) : (rs.foldl (withdrawRead l) u).windows = u.windows := by
    induction rs generalizing u with
    | nil => rfl
    | cons r rs ih => rw [List.foldl_cons, ih, hread]
  have hfirst : (withdrawReads l a n s).windows = s.windows := by
    unfold withdrawReads
    dsimp only
    split
    · rfl
    · exact hreads _ _
  have hsecond (u : State) : (withdrawChunks l a n u).windows = u.windows := by
    have hjob (v : State) (f : Job → Job) : (modJob f v).windows = v.windows := by
      unfold modJob
      split
      · split <;> rfl
      · rfl
    unfold withdrawChunks
    split
    · rfl
    · exact hjob _ _
  exact (hsecond _).trans hfirst

/-- A write is placed on a leg where its window's slot takes writes. -/
theorem placeWrite_effects (s : State) (r : Nat) (l : LegIx) (q : QueueName)
    (h : N → ∀ e ∈ s.writes, e.ref = r → ∀ w, e.window = some w → Takes s w l) : Effects F N s (placeWrite r l q s) := by
  unfold placeWrite
  split
  next e he =>
    split
    next a ha =>
      refine .ite ?_ (.refl s)
      have hclear : Effects F N s (readsCleared l a e.length s) := (withdrawReads_effects _ _ _ _).trans (withdrawChunks_effects _ _ _ _)
      have hwin := readsCleared_windows s l a e.length
      have hwrites : (readsCleared l a e.length s).writes = s.writes := (readsCleared_cleared s l a e.length).writes
      have htakes {u : State} (hu : u.windows = s.windows) {w : WinIx} (ht : Takes s w l) : Takes u w l := by
        unfold Takes State.win at ht ⊢
        rw [hu]
        exact ht
      have hmem : e ∈ s.writes := List.mem_of_find?_eq_some he
      have henter : Effects F N (readsCleared l a e.length s) (enqueue l q .write a e.length e.data (.write r e.window)
          (readsCleared l a e.length s)) := by
        refine enqueue_effects _ _ _ _ _ _ _ _ fun hN _ n w ho => htakes hwin ?_
        injection ho with _ hw
        exact h hN e hmem (findWrite_ref he) w hw
      refine hclear.trans (henter.trans ((Effects.one (.owe _ r l fun hN f hf hr w hw => ?_)).trans (raiseWork_effects _)))
      rw [enqueue_writes, hwrites] at hf
      exact htakes ((enqueue_windows ..).trans hwin) (h hN f hf hr w hw)
    · exact .refl s
  · exact .refl s

theorem placeWrite_windows (s : State) (r : Nat) (l : LegIx) (q : QueueName) : (placeWrite r l q s).windows = s.windows := by
  unfold placeWrite
  split
  · split
    · split
      · simp only [raiseWork_windows, modWrite_windows, enqueue_windows]
        exact readsCleared_windows s l _ _
      · rfl
    · rfl
  · rfl

/-- An issue places the write on the members that take writes only. -/
theorem issueWrite_effects (s : State) (r : Nat) (w : WinIx) (g : Nat) (p : WritePolicy) (h : N → RefOf s r w) :
    Effects F N s (issueWrite r w g p s) := by
  have place (ms : List Member) (u : State) (hu : N → RefOf u r w) (ht : ∀ m ∈ ms, Takes u w m.leg) :
      Effects F N u (ms.foldl (fun v m => placeWrite r m.leg (queueFor p (leadOf (s.win w)) m) v) u) := by
    induction ms generalizing u with
    | nil => exact .refl u
    | cons m ms ih =>
      have hone : Effects F N u (placeWrite r m.leg (queueFor p (leadOf (s.win w)) m) u) := by
        refine placeWrite_effects u r m.leg _ fun hN e he hr v hv => ?_
        have hvw : v = w := Option.some.inj (hv.symm.trans (hu hN e he hr))
        exact hvw ▸ ht m (List.mem_cons_self ..)
      refine hone.trans (ih _ (fun hN => hone.refOf (hu hN)) fun k hk => ?_)
      have hkeep := ht k (List.mem_cons_of_mem _ hk)
      unfold Takes State.win at hkeep ⊢
      rwa [placeWrite_windows]
  unfold issueWrite
  refine (place _ s h fun m hm => ?_).trans ((Effects.foldl (f := fun u m => addStale w m.leg g u)
    (fun u (m : Member) => addStale_effects u w m.leg g) _ _).trans (raiseWork_effects _))
  rw [List.mem_filter] at hm
  exact ⟨m, hm.1, rfl, hm.2⟩

/-! ## Release -/

theorem foldl_demoteHolding_effects (ms : List Member) (w : WinIx) (test : State → Member → Bool) {s : State} (hs : RefsApart N s) :
    Effects AnySlot N s
      (ms.foldl (fun u m => if test u m then demoteHolding w m.leg .lagOverflow .lagOverflow u else u) s) := by
  induction ms generalizing s with
  | nil => exact .refl s
  | cons m ms ih =>
    have hone : Effects AnySlot N s (if test s m then demoteHolding w m.leg .lagOverflow .lagOverflow s else s) :=
      .ite (demoteHolding_effects hs _ _ _ _) (.refl s)
    exact hone.trans (ih (hone.refsApart hs))

theorem lagOverflow_effects {s : State} (hs : RefsApart N s) (w : WinIx) (p : WritePolicy) :
    Effects AnySlot N s (lagOverflow w p s) :=
  .ite (foldl_demoteHolding_effects _ w (fun u m => isUp u m.leg && decide (Config.lagSize ≤ (u.leg m.leg).lag.length)) hs) (.refl s)

theorem reportOpen_effects (s : State) (w : WinIx) (g : Nat) : Effects F N s (reportOpen w g s) :=
  .ite (modJob_effects s _ (by intro j; exact ⟨rfl, rfl, rfl⟩)) (.refl s)

theorem unhold_effects (s : State) (r : Nat) : Effects F N s (unhold r s) :=
  (modWrite_effects s r _ (by intro e _ _; exact ⟨rfl, rfl, fun _ hl => hl, rfl, .inl rfl⟩)).trans (.same rfl rfl rfl rfl rfl rfl)

theorem refreshAddrs_effects (s : State) (r : Nat) (w : WinIx) (h : N → RefOf s r w) :
    Effects F N s (refreshAddrs r (s.win w) s) :=
  modWrite_effects s r _ (by intro e he hr; exact ⟨rfl, rfl, fun _ hl => hl, rfl, .inr ⟨w, fun hN => h hN e he hr, rfl⟩⟩)

theorem releaseOne_effects {s : State} (hs : RefsApart N s) (r : Nat) : Effects AnySlot N s (releaseOne r s).state := by
  unfold releaseOne
  split
  next e he =>
    split
    next w g p hw hg hp =>
      have href : N → RefOf s r w := fun hN => refOf_of_find (hs hN) he hw
      have hmark : Effects AnySlot N s (modWrite r (fun e => { e with held := .held }) s) :=
        modWrite_effects s r _ (by intro e _ _; exact ⟨rfl, rfl, fun _ hl => hl, rfl, .inl rfl⟩)
      have hreport : Effects AnySlot N s (lagOverflow w p (reportOpen w g s)) :=
        (reportOpen_effects s w g).trans (lagOverflow_effects ((reportOpen_effects (F := AnySlot) s w g).refsApart hs) w p)
      split
      · exact hmark
      · split
        · exact (unhold_effects _ _).trans (decideEmptied_effects _ _)
        · dsimp only
          split
          · exact hreport
          · have hfresh : Effects AnySlot N s (unhold r (refreshAddrs r ((lagOverflow w p (reportOpen w g s)).win w)
                (lagOverflow w p (reportOpen w g s)))) :=
              hreport.trans ((refreshAddrs_effects _ r w fun hN => hreport.refOf (href hN)).trans (unhold_effects _ _))
            exact hfresh.trans (issueWrite_effects _ r w g p fun hN => hfresh.refOf (href hN))
    · exact .refl s
  · exact .refl s

theorem releaseLoop_effects (n : Nat) {s : State} (hs : RefsApart N s) : Effects AnySlot N s (releaseLoop n s) := by
  induction n generalizing s with
  | zero => exact .refl s
  | succ n ih =>
    unfold releaseLoop
    split
    next r hr =>
      have hone : Effects AnySlot N s (releaseOne r s).state := releaseOne_effects hs r
      exact .ite (hone.trans (ih (hone.refsApart hs))) hone
    · exact .refl s

theorem resumeRelease_effects {s : State} (hs : RefsApart N s) : Effects AnySlot N s (resumeRelease s) :=
  .ite ((releaseLoop_effects _ hs).trans (raiseHead_effects _)) (.refl s)

theorem demote_effects {s : State} (hs : RefsApart N s) (w : WinIx) (l : LegIx) (c : MemberCause) (jc : JobCause) :
    Effects AnySlot N s (demote w l c jc s) := demoteWith_effects (fun _ h => resumeRelease_effects h) hs w l c jc

/-! ## Steering -/

theorem placeRead_effects {s : State} {r : Nat} {l : LegIx} (h : canEnter s l .direct = true) : Effects F N s (placeRead r l s) := by
  have hplace (a n : Nat) : Effects F N s (modRead r (fun e => { e with
      tried := legInsert l e.tried, current := some l, issueBeat := some e.delivered, failedOn := none })
      (enqueue l .direct .read a n [] (.read r) s)) := by
    have henter : Effects F N s (enqueue l .direct .read a n [] (.read r) s) := enqueue_effects _ _ _ _ _ _ _ _ (fun _ hk => nomatch hk)
    refine henter.trans (modRead_effects _ _ _ (by
      intro e
      exact ⟨rfl, rfl, rfl, .inr (.inr ⟨l, rfl, (henter.legState l).trans (canEnter_iff.mp h).1⟩)⟩))
  unfold placeRead
  split
  · split
    · dsimp only
      split
      · exact (hplace _ _).trans (count_effects _ _ _)
      · exact hplace _ _
    · exact .refl s
  · exact .refl s

theorem advanceRotate_effects (s : State) (w : WinIx) (l : LegIx) : Effects F N s (advanceRotate w l s) :=
  .ite (.one (.rotate s w _)) (.refl s)

theorem faultRead_effects (s : State) (r : Nat) : Effects F N s (faultRead r s) := by
  unfold faultRead
  split
  · exact (pushAnswers_effects _ _).trans ((Effects.one (.dropReads _ _)).trans (raiseHead_effects _))
  · exact .refl s

theorem canServe_enters {s : State} {e : ReadEntry} {l : LegIx} (h : canServe s e l = true) : canEnter s l .direct = true := by
  rw [canServe, Bool.and_eq_true, Bool.and_eq_true] at h
  exact h.1.1

theorem steerWindow_effects (e : ReadEntry) (w : WinIx) (s : State) : Effects F N s (steerWindow e w s) := by
  unfold steerWindow
  refine .ite (faultRead_effects _ _) ?_
  split
  next m hm =>
    obtain ⟨-, ⟨-, hserve⟩, -⟩ := choose_some hm
    exact (placeRead_effects (canServe_enters (canServe_iff.mpr hserve))).trans (advanceRotate_effects _ _ _)
  · exact .ite (.refl s) (faultRead_effects _ _)

theorem steerPass_effects (e : ReadEntry) (l : LegIx) (s : State) : Effects F N s (steerPass e l s) := by
  unfold steerPass
  split
  next h => exact placeRead_effects (canServe_enters h)
  · exact .ite (.refl s) (faultRead_effects _ _)

theorem steer_effects (s : State) (r : Nat) : Effects F N s (steer r s) := by
  unfold steer
  split
  · refine .ite (.refl s) ?_
    split
    · exact steerWindow_effects _ _ _
    · exact steerPass_effects _ _ _
    · exact faultRead_effects _ _
  · exact .refl s

theorem failRead_effects (s : State) (r : Nat) (l : LegIx) : Effects F N s (failRead r l s) :=
  (modRead_effects s r _ (by intro e; exact ⟨rfl, rfl, rfl, .inr (.inl rfl)⟩)).trans (steer_effects _ _)

theorem failReadsOn_effects (s : State) (l : LegIx) : Effects F N s (failReadsOn l s) :=
  .foldl (fun u n => failRead_effects u n l) _ s

theorem dropRead_effects (s : State) (r : Nat) (l : LegIx) : Effects F N s (dropRead r l s) :=
  (filterDirect_effects s l _).trans ((orphanWhere_effects _ _ _).trans (raise_effects _))

theorem takeBackReads_effects (s : State) (w : WinIx) (l : LegIx) : Effects F N s (takeBackReads w l s) :=
  .foldl (fun u n => (dropRead_effects u n l).trans (failRead_effects _ n l)) _ s

end

end Sys2Proof.Machine
end

section
/-! SUPPORT. What a demotion leaves of its slot (R30, R31, R33), and the obligation on demotions. -/

namespace Sys2Proof.Machine

open Sys2Proof.Safety

/-! ## The additions and clearings of step 2 -/

theorem addStale_marks {s : State} {w : WinIx} {l : LegIx} {m : Member} (h : memberOf s w l = some m) (hs : m.state = some .stale)
    (g : Nat) : Marked (addStale w l g s) w l g := by
  by_cases hw : m.whole = true
  · rw [addStale_closed h (.inr hw)]
    exact .inr ⟨m, h, hw⟩
  · rw [addStale_open h hs (Bool.eq_false_iff.mpr hw)]
    split
    next he => exact .inl (List.contains_iff_mem.mp he)
    next =>
      split
      · exact .inl (mem_storeInsert.mpr (.inl rfl))
      · rw [modMember_withSlot]
        exact .inr ⟨_, memberOf_withSlot (f := fun m => { m with whole := true }) (fun _ => rfl) h, rfl⟩

theorem addStale_writes (s : State) (w : WinIx) (l : LegIx) (g : Nat) : (addStale w l g s).writes = s.writes :=
  (addStale_slotsOnly s w l g).writes

/-- The clearings of step 2 of R31, whatever is recorded with them. -/
theorem clearAndRecord_writes (w : WinIx) (l : LegIx) (es : List WriteEntry) (s : State) : (clearAndRecord w l es s).writes =
    s.writes.map fun e => if e.ref ∈ es.map (·.ref) then { e with owed := legErase l e.owed } else e := by
  induction es generalizing s with
  | nil => simp [clearAndRecord]
  | cons x es ih =>
    have hhead : (clearAndRecord w l (x :: es) s).writes = (clearAndRecord w l es (clearOwed x.ref l s)).writes := by
      conv => lhs; unfold clearAndRecord
      split
      · rw [ih, ih, addStale_writes]
      · rfl
    rw [hhead, ih]
    simp only [clearOwed, raiseWork_writes, modWrite, List.map_map]
    refine List.map_congr_left fun e _ => ?_
    simp only [Function.comp_apply, List.map_cons, List.mem_cons, beq_iff_eq]
    by_cases h1 : e.ref = x.ref
    · simp only [h1, if_true, true_or]
      split
      · rw [legErase_legErase]
      · rfl
    · simp only [h1, if_false, false_or]

theorem clearAndRecord_marks {w : WinIx} {l : LegIx} {es : List WriteEntry} {s : State} (hs : slotState s w l = some .stale)
    {e : WriteEntry} (he : e ∈ es) {g : Nat} (hg : e.segment = some g) : Marked (clearAndRecord w l es s) w l g := by
  induction es generalizing s with
  | nil => cases he
  | cons x es ih =>
    have hstep : Effects (fun _ _ => False) False s (match x.segment with
        | some g => addStale w l g (clearOwed x.ref l s)
        | none => clearOwed x.ref l s) := by
      split
      · exact (clearOwed_effects _ _ _).trans (addStale_effects _ _ _ _)
      · exact clearOwed_effects _ _ _
    rcases List.mem_cons.mp he with rfl | he
    · obtain ⟨m, hm, hst⟩ := Option.bind_eq_some_iff.mp hs
      have hrest : Effects (fun _ _ => False) False (addStale w l g (clearOwed e.ref l s)) (clearAndRecord w l (e :: es) s) := by
        conv => rhs; unfold clearAndRecord
        rw [hg]
        exact clearAndRecord_effects _ w l es
      exact hrest.marked (addStale_marks (s := clearOwed e.ref l s) hm hst g)
    · exact ih (hstep.stale hs) he

/-! ## The slot after its fall -/

section
variable {s : State} {w : WinIx} {l : LegIx} {b : Bool}

theorem fallen_member {m : Member} (h : memberOf s w l = some m) :
    memberOf (fallen s w l b) w l = some { m with state := some .stale, whole := m.whole || b } :=
  memberOf_withSlot (s := s) (f := fun m => { m with state := some .stale, whole := m.whole || b }) (fun _ => rfl) h

theorem member_of_slotState {st : SlotState} (h : slotState s w l = some st) : ∃ m, memberOf s w l = some m ∧ m.state = some st :=
  Option.bind_eq_some_iff.mp h

theorem fallen_stale (h : slotState s w l = some .current ∨ slotState s w l = some .rebuilding) :
    slotState (fallen s w l b) w l = some .stale := by
  obtain ⟨m, hm⟩ : ∃ m, memberOf s w l = some m := by
    rcases h with h | h <;> exact (member_of_slotState h).imp fun _ h => h.1
  rw [slotState, fallen_member hm]
  rfl

/-- No slot of the window on the leg takes writes any more. -/
theorem fallen_takes : ¬ Takes (fallen s w l b) w l := by
  rintro ⟨m, hm, hl, ht⟩
  have hwin : (fallen s w l b).win w = (s.win w).withSlot l fun m => { m with state := some .stale, whole := m.whole || b } :=
    setWin_win_self s w _
  rw [hwin] at hm
  obtain ⟨n, hn, rfl⟩ := List.mem_map.mp hm
  by_cases hnl : n.leg = l
  · rw [if_pos hnl] at ht
    exact Bool.false_ne_true ht
  · rw [if_neg hnl] at hl
    exact hnl hl

theorem fallen_to_cleared : Effects (fun _ _ => False) False (fallen s w l b) (cleared s w l b) :=
  (clearAndRecord_effects _ _ _ _).trans (discardWrites_effects _ _ _)

theorem cleared_stale (h : slotState s w l = some .current ∨ slotState s w l = some .rebuilding) :
    slotState (cleared s w l b) w l = some .stale := fallen_to_cleared.stale (fallen_stale h)

theorem cleared_takes : ¬ Takes (cleared s w l b) w l := fun h => fallen_takes (fallen_to_cleared.takes h)

theorem legErase_not_mem (ls : List LegIx) : l ∉ legErase l ls := by simp [legErase]

theorem cleared_notOwed : NotOwed (cleared s w l b) w l := by
  intro f hf hw hl
  have hwrites : (cleared s w l b).writes = (clearAndRecord w l
      (s.writes.filter fun e => e.window == some w && e.owed.contains l) (fallen s w l b)).writes := rfl
  rw [hwrites, clearAndRecord_writes] at hf
  obtain ⟨e, he, rfl⟩ := List.mem_map.mp hf
  split at hl
  · exact legErase_not_mem _ hl
  next hout =>
    rw [if_neg hout] at hw
    refine hout (List.mem_map.mpr ⟨e, List.mem_filter.mpr ⟨he, ?_⟩, rfl⟩)
    simpa [hw] using hl

theorem cleared_noneQueued : NoneQueued (cleared s w l b) w l := by
  intro r hr
  have hleg : (cleared s w l b).leg l = _ := setLeg_leg_self (clearAndRecord w l
    (s.writes.filter fun e => e.window == some w && e.owed.contains l) (fallen s w l b)) l _
  rw [hleg, List.mem_append, List.mem_filter, List.mem_filter] at hr
  rcases hr with ⟨-, hr⟩ | ⟨-, hr⟩ <;> simpa using hr

theorem cleared_marked (h : slotState s w l = some .current ∨ slotState s w l = some .rebuilding) {e : WriteEntry} (he : e ∈ s.writes)
    (hw : e.window = some w) (hl : l ∈ e.owed) {g : Nat} (hg : e.segment = some g) : Marked (cleared s w l b) w l g := by
  have hmem : e ∈ s.writes.filter fun e => e.window == some w && e.owed.contains l :=
    List.mem_filter.mpr ⟨he, by simpa [hw] using hl⟩
  have hdiscard := discardWrites_effects (F := fun _ _ => False) (N := False)
    (clearAndRecord w l (s.writes.filter fun e => e.window == some w && e.owed.contains l) (fallen s w l b)) w l
  exact hdiscard.marked (clearAndRecord_marks (fallen_stale h) hmem hg)

/-- A slot that falls and is set WHOLE has no entries. -/
theorem fallen_unlisted (h : slotState s w l = some .current ∨ slotState s w l = some .rebuilding) :
    Unlisted (fallen s w l true) w l := by
  obtain ⟨m, hm⟩ : ∃ m, memberOf s w l = some m := by
    rcases h with h | h <;> exact (member_of_slotState h).imp fun _ h => h.1
  refine ⟨fun e he hwl => ?_, .inr ⟨_, fallen_member hm, Bool.or_true _⟩⟩
  have hout := (List.mem_filter.mp he).2
  rw [hwl.1, hwl.2, beq_self_eq_true, beq_self_eq_true] at hout
  exact Bool.false_ne_true hout

theorem staleList_of_unlisted (h : Unlisted s w l) : staleList s w l = [] := by
  rw [staleList, List.map_eq_nil_iff, List.filter_eq_nil_iff]
  intro e he
  rw [Bool.and_eq_true, beq_iff_eq, beq_iff_eq]
  exact h.1 e he

end

/-! ## Demotions -/

section
variable {s : State} {w : WinIx} {l : LegIx} {c : MemberCause} {jc : JobCause}

/-- What follows the clearing and the discard in a demotion of a slot, the second demotion of R33 with it. -/
theorem demote_of_cleared {N : Prop} (hs : RefsApart N s) (h : slotState s w l = some .current ∨ slotState s w l = some .rebuilding) :
    Effects AnySlot N (cleared s w l false) (demote w l c jc s) := by
  have hi (u : State) (hu : RefsApart N u) : Effects AnySlot N u (resumeRelease u) := resumeRelease_effects hu
  have hclear : Effects AnySlot N s (cleared s w l false) := cleared_effects s false trivial h
  have hone : Effects AnySlot N (cleared s w l false) (demoteOne resumeRelease w l c jc false s) :=
    demoteOne_of_cleared hi (hclear.refsApart hs) h c jc
  exact hone.trans (lostTarget_effects hi ((hclear.trans hone).refsApart hs) w)

theorem demote_leaves (hn : (s.writes.map (·.ref)).Nodup)
    (h : slotState s w l = some .current ∨ slotState s w l = some .rebuilding) :
    slotState (demote w l c jc s) w l = some .stale ∧
    (∀ e ∈ (demote w l c jc s).writes, e.window = some w → l ∉ e.owed) ∧
    (∀ e ∈ s.writes, e.window = some w → l ∈ e.owed → ∀ g, e.segment = some g →
      { window := w, leg := l, segment := g } ∈ (demote w l c jc s).store ∨
        ∃ m, memberOf (demote w l c jc s) w l = some m ∧ m.whole = true) ∧
    (∀ r ∈ ((demote w l c jc s).leg l).direct, r.isWriteOf w = false) ∧
    (∀ r ∈ ((demote w l c jc s).leg l).lag, r.isWriteOf w = false) := by
  have hrest : Effects AnySlot True (cleared s w l false) (demote w l c jc s) := demote_of_cleared (fun _ => hn) h
  have hqueued := hrest.noneQueued trivial cleared_takes cleared_noneQueued
  exact ⟨hrest.stale (cleared_stale h), hrest.notOwed trivial cleared_takes cleared_notOwed,
    fun e he hw hl g hg => hrest.marked (cleared_marked h he hw hl hg), fun r hr => hqueued r (List.mem_append_left _ hr),
    fun r hr => hqueued r (List.mem_append_right _ hr)⟩

/-- The second demotion of R33: the slot is STALE, WHOLE and without entries. -/
theorem demoteOne_whole_leaves (h : slotState s w l = some .rebuilding) :
    slotState (demoteOne resumeRelease w l c jc true s) w l = some .stale ∧
      isWhole (demoteOne resumeRelease w l c jc true s) w l = true ∧
      staleList (demoteOne resumeRelease w l c jc true s) w l = [] := by
  have hrest : Effects AnySlot False (cleared s w l true) (demoteOne resumeRelease w l c jc true s) :=
    demoteOne_of_cleared (fun _ hu => resumeRelease_effects hu) (fun hN => hN.elim) (.inr h) c jc
  have hlist := hrest.unlisted (fallen_to_cleared.unlisted (fallen_unlisted (.inr h)))
  have hstale := hrest.stale (cleared_stale (.inr h))
  refine ⟨hstale, ?_, staleList_of_unlisted hlist⟩
  obtain ⟨m, hm, -⟩ := member_of_slotState hstale
  rcases hlist.2 with hno | ⟨m', hm', hw⟩
  · rw [hno] at hm
    cases hm
  · rw [isWhole, hm']
    exact hw

theorem lostTarget_rests {issue : State → State} (h : ∀ j, runningJob s = some j → j.window = w → isLost (s.win w) = false) :
    lostTarget issue w s = s := by
  unfold lostTarget
  split
  next j hj =>
    refine if_neg ?_
    rw [Bool.and_eq_true, beq_iff_eq]
    rintro ⟨hw, hl⟩
    exact Bool.false_ne_true ((h j hj hw).symm.trans hl)
  · rfl

theorem lostTarget_ends {issue : State → State} {j : Job} (hj : runningJob s = some j) (hw : j.window = w) (hl : isLost (s.win w) = true) :
    lostTarget issue w s = demoteOne issue w j.target .rebuildAborted .noSource true s := by
  unfold lostTarget
  rw [hj]
  refine if_pos ?_
  rw [hl, Bool.and_true, beq_iff_eq]
  exact hw

theorem abortJob_eq {j : Job} (hj : runningJob s = some j) : abortJob s = { abandonChunks s with
    jobs := (abandonChunks s).jobs.tail
    writes := s.writes.map fun e => if e.held = .held then { e with held := .released } else e
    notice := { (abandonChunks s).notice with work := true, head := true } } := by
  obtain ⟨hr, js, h⟩ := runningJob_iff.mp hj
  have hwrites : (abandonChunks s).writes = s.writes := by rw [abandonChunks_eq h hr]
  simp only [abortJob, hj]
  rw [markReleased_eq, ← hwrites]

theorem postChange_cases (s : State) (w : WinIx) (old : Option Health) (h : Health) :
    postChange w old none s = s ∧ postChange w (some h) (some h) s = s ∧
    (old ≠ some h → postChange w old (some h) s = { s with events := s.events.offer (.windowHealth w old h) }) :=
  ⟨rfl, if_pos (beq_self_eq_true _), fun hne => if_neg (mt beq_iff_eq.mp hne)⟩

theorem isSource_iff : isSource s w l = true ↔ ∃ j, runningJob s = some j ∧ j.window = w ∧ j.source = some l := by
  unfold isSource
  rcases runningJob s with _ | j <;> simp

theorem leadOf_disabled {x : Window} (h : x.state = .disabled) : healthOf x = none ∧ leadOf x = none := by
  simp [healthOf, leadOf, h]

theorem leadOf_eq {x : Window} (h : x.state ≠ .disabled) :
    leadOf x = (x.members.filter fun m => m.state == some .current).head? := by
  rw [leadOf, if_neg (mt beq_iff_eq.mp h), ← List.head?_filter]

end

/-- Settles O29: what holds after the fall, the clearing and the discard is kept by the effects that follow; the steps are those of the model,
taken by the slot's state. -/
theorem demotionRecordsWhatTheSlotMayHaveMissed : Obligations.DemotionRecordsWhatTheSlotMayHaveMissed := by
  unfold Obligations.DemotionRecordsWhatTheSlotMayHaveMissed
  refine ⟨fun s w l c jc hn h => demote_leaves hn h, fun issue s w l c jc b h1 h2 => demoteOne_rests h1 h2, ?steps, ?parts, ?health,
    ?lost, ?holding⟩
  case steps =>
    intro issue s w l c jc b es slot U emptied
    exact ⟨fun h => demoteOne_current h, fun j h hj => demoteOne_rebuilding h hj⟩
  case parts =>
    intro s w l
    refine ⟨rfl, fun e es g hg => ?_, rfl, fun j hj => abortJob_eq hj, fun old h => postChange_cases s w old h, isSource_iff⟩
    conv => lhs; unfold clearAndRecord
    rw [hg]
    rfl
  case health =>
    intro x n
    exact ⟨leadOf_disabled, fun h => ⟨healthOf_eq h, leadOf_eq h⟩, isLost_iff⟩
  case lost =>
    intro s w l c jc t
    refine ⟨fun h => lostTarget_rests h, fun j hj hw hl => ?_⟩
    have hends : demote w l c jc s = demoteOne resumeRelease w j.target .rebuildAborted .noSource true t := lostTarget_ends hj hw hl
    exact ⟨hends, fun hs => hends ▸ demoteOne_whole_leaves hs⟩
  case holding =>
    exact fun s w l c jc => ⟨fun h => lostTarget_rests h, fun j hj hw hl => lostTarget_ends hj hw hl⟩

end Sys2Proof.Machine
end

section
/-! SUPPORT. A leg that leaves UP (R146): what its departure leaves of its port, reads, slots and pass-through writes. -/

namespace Sys2Proof.Machine

open Sys2Proof.Safety

/-! ## The departure -/

/-- The leg in its new state, its queues empty and its LIVE entries orphaned, LEG_CHANGE offered (R146 parts 1 to 3). -/
def departed (l : LegIx) (new : LegState) (c : LegCause) (s : State) : State :=
  { s.setLeg l { s.leg l with
      state := new, direct := [], lag := [], copy := []
      inflight := (s.leg l).inflight.map fun f =>
        if f.condition = .live then { f with condition := .orphaned, owner := none } else f } with
    events := s.events.offer (.legChange l c (s.leg l).state new), notice := Notice.full }

theorem departed_eq (l : LegIx) (new : LegState) (c : LegCause) (s : State) :
    modLeg l LegPort.abandonAll (setLegState l new c s) = departed l new c s := by
  have horphan : Flight.orphan = fun f => if f.condition = .live then { f with condition := .orphaned, owner := none } else f := by
    funext f
    simp only [Flight.orphan, beq_iff_eq]
  have hleg : (setLegState l new c s).leg l = { s.leg l with state := new } := setLeg_leg_self s l _
  rw [modLeg, hleg, setLegState_eq]
  simp only [departed, State.setLeg, Vector.set_set, LegPort.abandonAll, horphan]

theorem leaveUp_eq (l : LegIx) (new : LegState) (c : LegCause) (s : State) : leaveUp l new c s =
    { clearPassLeg l (demoteLeg l (loseSource l (failReadsOn l (departed l new c s)))) with notice := Notice.full } := by
  rw [leaveUp, departed_eq]
  rfl

section
variable {s : State} {l : LegIx} {new : LegState} {c : LegCause}

theorem departed_leg : (departed l new c s).leg l = { s.leg l with
    state := new, direct := [], lag := [], copy := []
    inflight := (s.leg l).inflight.map fun f =>
      if f.condition = .live then { f with condition := .orphaned, owner := none } else f } := setLeg_leg_self s l _

theorem departed_idle (h : new ≠ .up) : ((departed l new c s).leg l).Idle := by
  rw [departed_leg]
  refine ⟨h, rfl, rfl, rfl, fun f hf => ?_⟩
  obtain ⟨g, -, rfl⟩ := List.mem_map.mp hf
  split
  · exact nofun
  next hg => exact hg

/-! ## Reads -/

theorem failRead_clears {r : Nat} {rs : List Nat} (hl : (s.leg l).state ≠ .up) (h : OnLegOnly s l (r :: rs)) :
    OnLegOnly (failRead r l s) l rs := by
  have hmod : OnLegOnly (modRead r
      (fun e => { e with current := none, issueBeat := none, failedOn := if e.window.isSome then some l else none }) s) l rs := by
    intro f hf hcur
    obtain ⟨e, he, rfl⟩ := List.mem_map.mp hf
    split at hcur
    · cases hcur
    next hr =>
      rw [if_neg hr]
      rcases List.mem_cons.mp (h e he hcur) with hn | hmem
      · exact absurd (beq_iff_eq.mpr hn) hr
      · exact hmem
  have hsteer : Effects AnySlot False (modRead r
      (fun e => { e with current := none, issueBeat := none, failedOn := if e.window.isSome then some l else none }) s)
      (failRead r l s) := steer_effects _ r
  exact hsteer.onLegOnly hl hmod

theorem foldl_failRead_clears {rs : List Nat} (hl : (s.leg l).state ≠ .up) (h : OnLegOnly s l rs) :
    OnLegOnly (rs.foldl (fun u n => failRead n l u) s) l [] := by
  induction rs generalizing s with
  | nil => exact h
  | cons r rs ih =>
    refine ih ?_ (failRead_clears hl h)
    rwa [(failRead_effects (F := AnySlot) (N := False) s r l).legState]

/-- After the failures no read is on a leg that is not UP. -/
theorem failReadsOn_clears (hl : (s.leg l).state ≠ .up) : OnLegOnly (failReadsOn l s) l [] := by
  refine foldl_failRead_clears hl fun e he hcur => List.mem_map.mpr ⟨e, List.mem_filter.mpr ⟨he, ?_⟩, rfl⟩
  exact beq_iff_eq.mpr hcur

/-! ## Slots -/

theorem foldl_demote_effects (ws : List WinIx) (s : State) :
    Effects AnySlot False s (ws.foldl (fun u w => demote w l .legLeft .targetDown u) s) :=
  .foldl (fun _ _ => demote_effects (fun hN => hN.elim) _ _ _ _) ws s

theorem demoteLeg_effects (s : State) (l : LegIx) : Effects AnySlot False s (demoteLeg l s) := foldl_demote_effects allWindows s

theorem demote_stale {w : WinIx} {mc : MemberCause} {jc : JobCause} (h : slotState s w l = some .current ∨
    slotState s w l = some .rebuilding ∨ slotState s w l = some .stale) : slotState (demote w l mc jc s) w l = some .stale := by
  have fall (hcr : slotState s w l = some .current ∨ slotState s w l = some .rebuilding) :
      slotState (demote w l mc jc s) w l = some .stale :=
    (demote_of_cleared (N := False) (fun hN => hN.elim) hcr).stale (cleared_stale hcr)
  rcases h with h | h | h
  · exact fall (.inl h)
  · exact fall (.inr h)
  · exact (demote_effects (N := False) (fun hN => hN.elim) w l mc jc).stale h

theorem foldl_demote_stale {ws : List WinIx} {w : WinIx} (hw : w ∈ ws) (h : slotState s w l = some .current ∨
    slotState s w l = some .rebuilding ∨ slotState s w l = some .stale) :
    slotState (ws.foldl (fun u w => demote w l .legLeft .targetDown u) s) w l = some .stale := by
  induction ws generalizing s with
  | nil => cases hw
  | cons v ws ih =>
    rw [List.foldl_cons]
    by_cases hv : w = v
    · subst hv
      exact (foldl_demote_effects ws _).stale (demote_stale h)
    · refine ih ((List.mem_cons.mp hw).resolve_left hv) ?_
      rcases (demote_effects (N := False) (fun hN => hN.elim) v l .legLeft .targetDown).slotState w l with hsame | ⟨-, -, hst⟩
      · rw [hsame]
        exact h
      · exact .inr (.inr hst)

theorem demoteLeg_stale {w : WinIx} (h : slotState s w l = some .current ∨ slotState s w l = some .rebuilding ∨
    slotState s w l = some .stale) : slotState (demoteLeg l s) w l = some .stale := foldl_demote_stale (mem_allWindows w) h

/-! ## Pass-through writes (R64) -/

theorem mem_decideEmptied {r : Nat} {f : WriteEntry} (h : f ∈ (decideEmptied r s).writes) : f ∈ s.writes := by
  rcases hf : findWrite s r with _ | e
  · rwa [decideEmptied_none hf] at h
  · by_cases hs : e.owed ≠ [] ∨ e.held ≠ .no
    · rwa [decideEmptied_stays hf hs] at h
    · rw [not_or, not_not, not_not] at hs
      rw [decideEmptied_emptied hf hs.1 hs.2] at h
      exact List.mem_of_mem_filter h

/-- The pass-through writes that owe the leg have their references in `left`. -/
def PassOwedOnly (s : State) (l : LegIx) (left : List Nat) : Prop := ∀ e ∈ s.writes, e.window = none → l ∈ e.owed → e.ref ∈ left

theorem clearOwed_passOwed {r : Nat} {rs : List Nat} (h : PassOwedOnly s l (r :: rs)) : PassOwedOnly (clearOwed r l s) l rs := by
  intro f hf hw hl
  obtain ⟨e, he, rfl⟩ := List.mem_map.mp hf
  split at hl
  · exact absurd hl (legErase_not_mem _)
  next hr =>
    rw [if_neg hr] at hw ⊢
    rcases List.mem_cons.mp (h e he hw hl) with hn | hmem
    · exact absurd (beq_iff_eq.mpr hn) hr
    · exact hmem

theorem foldl_clear_passOwed {rs : List Nat} (h : PassOwedOnly s l rs) :
    PassOwedOnly (rs.foldl (fun u n => decideEmptied n (clearOwed n l u)) s) l [] := by
  induction rs generalizing s with
  | nil => exact h
  | cons r rs ih => exact ih fun f hf => clearOwed_passOwed h f (mem_decideEmptied hf)

theorem clearPassLeg_passOwed : PassOwedOnly (clearPassLeg l s) l [] := by
  refine foldl_clear_passOwed fun e he hw hl => List.mem_map.mpr ⟨e, List.mem_filter.mpr ⟨he, ?_⟩, rfl⟩
  simpa [hw] using hl

/-! ## The obligation -/

/-- The departure's effects after the reads have failed. -/
theorem departed_rest : Effects AnySlot False (failReadsOn l s) (clearPassLeg l (demoteLeg l (loseSource l (failReadsOn l s)))) :=
  (loseSource_effects _ l).trans ((demoteLeg_effects _ l).trans (clearPassLeg_effects _ l))

/-- What holds when the departure's parts are taken. -/
theorem departure_leaves (hn : new ≠ .up) : ∃ v, leaveUp l new c s = { v with notice := Notice.full } ∧
    v.leg l = (departed l new c s).leg l ∧ PassOwedOnly v l [] ∧ OnLegOnly v l [] ∧
    ∀ w, slotState s w l = some .current ∨ slotState s w l = some .rebuilding → slotState v w l = some .stale := by
  have hidle : ((departed l new c s).leg l).Idle := departed_idle hn
  have hfail : Effects AnySlot False (departed l new c s) (failReadsOn l (departed l new c s)) := failReadsOn_effects _ l
  have hup : ((failReadsOn l (departed l new c s)).leg l).state ≠ .up := by
    rw [hfail.legState]
    exact hidle.state
  refine ⟨_, leaveUp_eq l new c s, (hfail.trans departed_rest).idle hidle, clearPassLeg_passOwed,
    departed_rest.onLegOnly hup (failReadsOn_clears hidle.state), fun w h => ?_⟩
  have hlost : slotState (loseSource l (failReadsOn l (departed l new c s))) w l = some .current ∨
      slotState (loseSource l (failReadsOn l (departed l new c s))) w l = some .rebuilding ∨
      slotState (loseSource l (failReadsOn l (departed l new c s))) w l = some .stale := by
    rcases (hfail.trans (loseSource_effects _ l)).slotState w l with hsame | ⟨-, -, hst⟩
    · rw [hsame]
      exact h.imp_right .inl
    · exact .inr (.inr hst)
  have hpass : Effects AnySlot False (demoteLeg l (loseSource l (failReadsOn l (departed l new c s))))
    (clearPassLeg l (demoteLeg l (loseSource l (failReadsOn l (departed l new c s))))) := clearPassLeg_effects _ l
  exact hpass.stale (demoteLeg_stale hlost)

theorem departed_numbers : ((departed l new c s).leg l).inflight.map (·.number) = (s.leg l).inflight.map (·.number) := by
  rw [departed_leg, List.map_map]
  refine List.map_congr_left fun f _ => ?_
  simp only [Function.comp_apply]
  split <;> rfl

theorem leaveUp_leaves (hn : new ≠ .up) :
    let p := s.leg l
    let u := leaveUp l new c s
    let t := u.leg l
    t.state = new ∧ t.direct = [] ∧ t.lag = [] ∧ t.copy = [] ∧ (∀ f ∈ t.inflight, f.condition ≠ .live) ∧
    t.inflight.map (·.number) = p.inflight.map (·.number) ∧ t.identity = p.identity ∧ t.timeout = p.timeout ∧
    t.nextNumber = p.nextNumber ∧ t.arbiter = p.arbiter ∧ t.failures = p.failures ∧ t.ready = p.ready ∧
    (∀ e ∈ u.writes, e.window = none → l ∉ e.owed) ∧ (∀ e ∈ u.reads, e.current ≠ some l) ∧
    ∀ w, slotState s w l = some .current ∨ slotState s w l = some .rebuilding → slotState u w l = some .stale := by
  intro p u t
  obtain ⟨v, hu, hport, hpass, hreads, hslot⟩ := departure_leaves (s := s) (c := c) (l := l) hn
  have ht : t = (departed l new c s).leg l := (congrArg (fun x : State => x.leg l) hu).trans hport
  have hwrites : u.writes = v.writes := (congrArg State.writes hu).trans rfl
  have hur : u.reads = v.reads := (congrArg State.reads hu).trans rfl
  have hus (w : WinIx) : slotState u w l = slotState v w l :=
    (congrArg (fun x : State => slotState x w l) hu).trans rfl
  have hidle : ((departed l new c s).leg l).Idle := departed_idle hn
  rw [ht, hwrites, hur]
  refine ⟨by rw [departed_leg], hidle.direct, hidle.lag, hidle.copy, hidle.flights, departed_numbers, by rw [departed_leg],
    by rw [departed_leg], by rw [departed_leg], by rw [departed_leg], by rw [departed_leg], by rw [departed_leg],
    fun e he hw hl => ?_, fun e he hcur => ?_, fun w h => (hus w).trans (hslot w h)⟩
  · exact List.not_mem_nil (hpass e he hw hl)
  · exact List.not_mem_nil (hreads e he hcur)

end

/-- Settles O35: the leg is idle from its departure on, and the effects that follow leave an idle leg alone and let slots only fall. -/
theorem leavingUpEmptiesTheLeg : Obligations.LeavingUpEmptiesTheLeg := by
  unfold Obligations.LeavingUpEmptiesTheLeg
  refine ⟨fun s l new c hn => leaveUp_leaves hn, fun s l new c => leaveUp_eq l new c s, fun s l => ⟨rfl, fun j hj hs => ?_, fun h => ?_, rfl,
    rfl⟩⟩
  · refine if_pos ?_
    rw [hj, Option.any_some, beq_iff_eq]
    exact hs
  · refine if_neg ?_
    rw [Option.any_eq_true]
    rintro ⟨j, hj, hs⟩
    exact h j hj (beq_iff_eq.mp hs)

end Sys2Proof.Machine
end

section
/-! SUPPORT. MEMBER_REMOVE: its table (R27), and its steps as equations (R28, R29). -/

namespace Sys2Proof.Machine

open Sys2Proof.Safety

/-! ## The table -/

/-- The table of R27, its argument bytes read. -/
theorem cmdMemberRemove_eq {s : State} (w : WinIx) (l : LegIx) (hr : inReset s = false) :
    cmdMemberRemove [winToByte w, legToByte l] s =
      if (s.win w).state != .enabled then refuse .state s
      else match memberOf s w l with
        | some m => if removeRefused (s.win w) m then refuse .last s else finish .done (removeMember w l s)
        | none => refuse .arg s := by
  simp only [cmdMemberRemove, hr, winArg_winToByte, legArg_legToByte, Bool.false_eq_true, if_false] <;> rfl

theorem removeRefused_iff {x : Window} {m : Member} : removeRefused x m = true ↔ x.members.length = 1 ∨
    (m.state = some .current ∧ (x.members.filter fun k => k.state == some .current).length = 1) := by
  rw [removeRefused, Bool.or_eq_true, Bool.and_eq_true, beq_iff_eq, beq_iff_eq, beq_iff_eq]
  rfl

theorem memberRemove_answers {s : State} {q : Byte} {w : WinIx} {l : LegIx} (hl : Listening s) (hp : s.port.progress = .none) :
    let H := heard 0x21 q [winToByte w, legToByte l] s
    let answer := exec (.memberRemove q [winToByte w, legToByte l]) s
    ((s.win w).state ≠ .enabled → answer = .next (answered q .state [] H)) ∧
    ((s.win w).state = .enabled → memberOf s w l = none → answer = .next (answered q .arg [] H)) ∧
    (∀ m, (s.win w).state = .enabled → memberOf s w l = some m →
      (removeRefused (s.win w) m = true → answer = .next (answered q .last [] H)) ∧
      (removeRefused (s.win w) m = false → answer = .next (answered q .done [] (react (removeMember w l H))))) := by
  intro H answer
  have hrun : answer = .next (respond q (cmdMemberRemove [winToByte w, legToByte l] H)) :=
    exec_heard (c := .memberRemove q [winToByte w, legToByte l]) rfl (by simp) hl
  have hwin : H.win w = s.win w := rfl
  have hmember : memberOf H w l = memberOf s w l := rfl
  rw [cmdMemberRemove_eq (s := H) w l (inReset_eq_false.mpr hp), hwin, hmember] at hrun
  refine ⟨fun h => ?_, fun he hm => ?_, fun m he hm => ⟨fun h => ?_, fun h => ?_⟩⟩
  · rw [hrun, if_pos (bne_iff_ne.mpr h), respond_refuse]
  all_goals rw [he, hm, bne_self_eq_false, if_neg Bool.false_ne_true] at hrun
  · rw [hrun, respond_refuse]
  · simp only [h, if_true] at hrun
    rw [hrun, respond_refuse]
  · simp only [h, Bool.false_eq_true, if_false] at hrun
    rw [hrun, respond_finish]

/-! ## Step 1 (R28): the owed writes -/

theorem decideEmptied_update (r : Nat) (s : State) :
    ∃ es k n, decideEmptied r s = { s with writes := es, link := k, notice := n } := by
  rcases hf : findWrite s r with _ | e
  · exact ⟨_, _, _, decideEmptied_none hf⟩
  · by_cases hs : e.owed ≠ [] ∨ e.held ≠ .no
    · exact ⟨_, _, _, decideEmptied_stays hf hs⟩
    · rw [not_or, not_not, not_not] at hs
      exact ⟨_, _, _, decideEmptied_emptied hf hs.1 hs.2⟩

/-- Answers change trackers, link and notice only. -/
theorem decideAll_update (rs : List Nat) (s : State) : ∃ es k n, decideAll rs s = { s with writes := es, link := k, notice := n } := by
  unfold decideAll
  induction rs generalizing s with
  | nil => exact ⟨_, _, _, rfl⟩
  | cons r rs ih =>
    obtain ⟨es, k, n, h⟩ := decideEmptied_update r s
    obtain ⟨es', k', n', h'⟩ := ih (decideEmptied r s)
    refine ⟨es', k', n', ?_⟩
    rw [List.foldl_cons, h', h]

theorem mem_decideAll {rs : List Nat} {s : State} {f : WriteEntry} (h : f ∈ (decideAll rs s).writes) : f ∈ s.writes := by
  unfold decideAll at h
  induction rs generalizing s with
  | nil => exact h
  | cons r rs ih => exact mem_decideEmptied (ih h)

/-- A tracked write that has lost the removed leg. -/
def WriteEntry.withoutMember (w : WinIx) (l : LegIx) (e : WriteEntry) : WriteEntry :=
  if e.window = some w then { e with
    owed := legErase l e.owed, acked := legErase l e.acked, legAddrs := e.legAddrs.filter fun a => a.1 != l } else e

theorem dropLeg_eq (w : WinIx) (l : LegIx) (s : State) : dropLeg w l s = { s with writes := s.writes.map (·.withoutMember w l) } := by
  simp only [dropLeg, beq_iff_eq]
  rfl

theorem clearRemoved_update (w : WinIx) (l : LegIx) (s : State) :
    ∃ es k n, clearRemoved w l s = { s with writes := es, link := k, notice := n } := by
  obtain ⟨es, k, n, h⟩ := decideAll_update (owingOnly l (owing s w l)) (dropLeg w l s)
  exact ⟨es, k, n, h⟩

/-! ## Steps 2 to 4: queues, store, job -/

/-- The state once the member's writes, queued requests and entries are gone (R28 steps 1 to 3). -/
def memberFreed (w : WinIx) (l : LegIx) (s : State) : State := freeSlot w l (discardWrites w l (clearRemoved w l s))

theorem memberFreed_jobs (w : WinIx) (l : LegIx) (s : State) : (memberFreed w l s).jobs = s.jobs := by
  obtain ⟨es, k, n, h⟩ := clearRemoved_update w l s
  rw [memberFreed, h]
  rfl

theorem memberFreed_windows (w : WinIx) (l : LegIx) (s : State) : (memberFreed w l s).windows = s.windows := by
  obtain ⟨es, k, n, h⟩ := clearRemoved_update w l s
  rw [memberFreed, h]
  rfl

/-- What follows the closing of the list (R28 steps 6 and 7, R29, R121): `v` after the released writes, `x` the window as it closed. -/
def removalEnd (w : WinIx) (l : LegIx) (s : State) (x : Window) (v : State) : State :=
  takeBackReads w l (dropReadAddr w l
    (if isSource s w l then restartPass (postChange w (healthOf (s.win w)) (healthOf x) (post (.memberChange w l .removed none) v))
      else postChange w (healthOf (s.win w)) (healthOf x) (post (.memberChange w l .removed none) v)))

section
variable {s : State} {w : WinIx} {l : LegIx}

theorem removeMember_eq : removeMember w l s =
    (removalEnd w l s ((closeList w l (removeSlotJob w l (memberFreed w l s))).win w)
      (if isTarget s w l then resumeRelease (closeList w l (removeSlotJob w l (memberFreed w l s)))
        else closeList w l (removeSlotJob w l (memberFreed w l s)))).raise := rfl

theorem isTarget_iff : isTarget s w l = true ↔ ∃ j, runningJob s = some j ∧ j.window = w ∧ j.target = l := by
  unfold isTarget
  rcases runningJob s with _ | j <;> simp

theorem removeSlotJob_none (h : ∀ j ∈ s.jobs, ¬ (j.window = w ∧ j.target = l)) : removeSlotJob w l s = s := by
  have hfind : (s.jobs.find? fun j => j.window == w && j.target == l) = none := by
    rw [List.find?_eq_none]
    intro j hj
    rw [Bool.and_eq_true, beq_iff_eq, beq_iff_eq]
    exact h j hj
  simp only [removeSlotJob, hfind]

theorem removeSlotJob_queued {j : Job} (h : (s.jobs.find? fun j => j.window == w && j.target == l) = some j) (hr : j.running = false) :
    removeSlotJob w l s = post (.jobEnded w l .removed j.number) (dropSlotJob w l s) := by
  simp only [removeSlotJob, h, hr, Bool.false_eq_true, if_false]

theorem removeSlotJob_running {j : Job} (h : (s.jobs.find? fun j => j.window == w && j.target == l) = some j) (hr : j.running = true) :
    removeSlotJob w l s = post (.jobEnded w l .removed j.number) (abortJob s) := by
  simp only [removeSlotJob, h, hr, if_true]

/-- The removal of a member without a job. -/
theorem removeMember_noJob (h : ∀ j ∈ s.jobs, ¬ (j.window = w ∧ j.target = l)) : removeMember w l s =
    (removalEnd w l s ((closeList w l (memberFreed w l s)).win w) (closeList w l (memberFreed w l s))).raise := by
  have htarget : ¬ isTarget s w l = true := by
    rw [isTarget_iff]
    rintro ⟨j, hj, hwl⟩
    obtain ⟨-, js, hjobs⟩ := runningJob_iff.mp hj
    exact h j (by rw [hjobs]; exact List.mem_cons_self ..) hwl
  rw [removeMember_eq, removeSlotJob_none (s := memberFreed w l s) (by rw [memberFreed_jobs]; exact h), if_neg htarget]

theorem removeMember_queued {j : Job} (h : (s.jobs.find? fun j => j.window == w && j.target == l) = some j) (hr : j.running = false)
    (hno : ∀ k, runningJob s = some k → ¬ (k.window = w ∧ k.target = l)) :
    let u := post (.jobEnded w l .removed j.number) (dropSlotJob w l (memberFreed w l s))
    removeMember w l s = (removalEnd w l s ((closeList w l u).win w) (closeList w l u)).raise := by
  intro u
  have htarget : ¬ isTarget s w l = true := by
    rw [isTarget_iff]
    rintro ⟨k, hk, hwl⟩
    exact hno k hk hwl
  rw [removeMember_eq, removeSlotJob_queued (s := memberFreed w l s) (by rw [memberFreed_jobs]; exact h) hr, if_neg htarget]

theorem removeMember_running {j : Job} (h : (s.jobs.find? fun j => j.window == w && j.target == l) = some j)
    (hj : runningJob s = some j) :
    let u := post (.jobEnded w l .removed j.number) (abortJob (memberFreed w l s))
    removeMember w l s = (removalEnd w l s ((closeList w l u).win w) (resumeRelease (closeList w l u))).raise := by
  intro u
  have hr : j.running = true := (runningJob_iff.mp hj).1
  have hwl : j.window = w ∧ j.target = l := by simpa using List.find?_some h
  rw [removeMember_eq, removeSlotJob_running (s := memberFreed w l s) (by rw [memberFreed_jobs]; exact h) hr,
    if_pos (isTarget_iff.mpr ⟨j, hj, hwl⟩)]

/-! ## The reads (R29) -/

theorem dropReadAddr_eq : dropReadAddr w l s = { s with
    reads := s.reads.map fun e =>
      if e.window = some w then { e with legAddrs := e.legAddrs.filter fun a => a.1 != l } else e } := by
  simp only [dropReadAddr, beq_iff_eq]
  rfl

theorem takeBackReads_eq : takeBackReads w l s =
    ((s.reads.filter fun e => e.current == some l && e.window == some w).map (·.ref)).foldl
      (fun u n => failRead n l (dropRead n l u)) s := by
  have hfilter : (readsOn s l).filter (fun e => e.window == some w) =
      s.reads.filter fun e => e.current == some l && e.window == some w := by
    rw [readsOn, List.filter_filter]
    refine List.filter_congr fun e _ => ?_
    rw [Bool.and_comm]
  rw [takeBackReads, hfilter]

theorem dropRead_eq (n : Nat) : dropRead n l s = { s.setLeg l { s.leg l with
      direct := (s.leg l).direct.filter fun r => r.owner != .read n
      inflight := (s.leg l).inflight.map fun f =>
        if f.owner = some (.read n) ∧ f.condition = .live then { f with condition := .orphaned, owner := none } else f } with
    notice := Notice.full } := by
  have hown (f : Flight) : (f.owner.any fun o => o == .read n) = true ↔ f.owner = some (.read n) := by
    cases f.owner <;> simp
  rw [dropRead, orphanWhere_eq, modLeg, setLeg_leg_self, setLeg_setLeg]
  simp only [hown]
  rfl

end

end Sys2Proof.Machine
end

section
/-! SUPPORT. What MEMBER_REMOVE leaves of the member (R28, R29), and the obligation. -/

namespace Sys2Proof.Machine

open Sys2Proof.Safety

/-! ## A member that is gone -/

/-- Nothing of a removed member is left in the window, the write tracker, the queues and the store. -/
structure Gone (s : State) (w : WinIx) (l : LegIx) : Prop where
  refs : (s.writes.map (·.ref)).Nodup
  member : memberOf s w l = none
  owed : NotOwed s w l
  acked : NotAcked s w l
  addr : NoWriteAddr s w l
  queued : NoneQueued s w l
  store : ∀ e ∈ s.store, ¬ (e.window = w ∧ e.leg = l)

theorem not_takes_of_noMember {s : State} {w : WinIx} {l : LegIx} (h : memberOf s w l = none) : ¬ Takes s w l := by
  rintro ⟨m, hm, hl, -⟩
  exact memberOf_eq_none.mp h m hm hl

section
variable {F : WinIx → LegIx → Prop} {s t : State} {w : WinIx} {l : LegIx}

theorem Effects.gone (h : Effects F True s t) (hs : Gone s w l) : Gone t w l :=
  have hno : ¬ Takes s w l := not_takes_of_noMember hs.member
  { refs := h.nodup hs.refs
    member := h.noMember hs.member
    owed := h.notOwed trivial hno hs.owed
    acked := h.notAcked hs.acked
    addr := h.noWriteAddr trivial hs.member hs.addr
    queued := h.noneQueued trivial hno hs.queued
    store := (h.unlisted ⟨hs.store, .inl hs.member⟩).1 }

/-- The legs and bases of a window's members. -/
def Window.keys (x : Window) : List (LegIx × Nat) := x.members.map fun m => (m.leg, m.base)

theorem withSlot_keys (x : Window) (l : LegIx) {f : Member → Member} (hf : ∀ m, ((f m).leg, (f m).base) = (m.leg, m.base)) :
    (x.withSlot l f).keys = x.keys := by
  simp only [Window.keys, Window.withSlot, List.map_map]
  refine List.map_congr_left fun m _ => ?_
  simp only [Function.comp_apply]
  split
  · exact hf m
  · rfl

theorem keys_congr {x y : Window} (h : x.members = y.members) : x.keys = y.keys := by rw [Window.keys, Window.keys, h]

theorem Effects.keys (h : Effects F N s t) (w : WinIx) : (t.win w).keys = (s.win w).keys := by
  refine h.keep (P := fun u => (u.win w).keys = (s.win w).keys) (fun a b hab ha => ?_) rfl
  rcases hab.win_cases w with hm | ⟨l, ⟨c, -, -, hm⟩ | hm⟩
  · exact (keys_congr hm).trans ha
  · exact (keys_congr hm).trans ((withSlot_keys _ l (by intro m; rfl)).trans ha)
  · exact (keys_congr hm).trans ((withSlot_keys _ l (by intro m; rfl)).trans ha)

end

/-! ## The steps before the list closes -/

/-- A write entry with the same window, sets and addresses. -/
structure WriteEntry.SameSets (e f : WriteEntry) : Prop where
  window : f.window = e.window
  owed : f.owed = e.owed
  acked : f.acked = e.acked
  legAddrs : f.legAddrs = e.legAddrs

/-- What the end of a slot's job leaves alone. -/
structure JobOnly (s t : State) : Prop where
  windows : t.windows = s.windows
  store : t.store = s.store
  refs : t.writes.map (·.ref) = s.writes.map (·.ref)
  writes : ∀ f ∈ t.writes, ∃ e ∈ s.writes, e.SameSets f
  queues : ∀ l, (t.leg l).direct = (s.leg l).direct ∧ (t.leg l).lag = (s.leg l).lag

theorem JobOnly.of_eq {s t : State} (hw : t.windows = s.windows) (hs : t.store = s.store) (hf : t.writes = s.writes) (hl : t.legs = s.legs) :
    JobOnly s t :=
  ⟨hw, hs, by rw [hf], fun f h => ⟨f, hf ▸ h, rfl, rfl, rfl, rfl⟩, fun l => by simp only [State.leg, hl, and_self]⟩

theorem abortJob_jobOnly (s : State) : JobOnly s (abortJob s) := by
  cases hj : runningJob s with
  | none =>
    have hrest : abortJob s = s := by simp only [abortJob, hj]
    rw [hrest]
    exact .of_eq rfl rfl rfl rfl
  | some j =>
    obtain ⟨hr, js, h⟩ := runningJob_iff.mp hj
    have hwin : (abandonChunks s).windows = s.windows := by rw [abandonChunks_eq h hr]
    have hstore : (abandonChunks s).store = s.store := by rw [abandonChunks_eq h hr]
    have hleg : ∀ l, (abandonChunks s).leg l = (s.leg l).chunkless := abandonChunks_leg s
    rw [abortJob_eq hj]
    generalize abandonChunks s = u at hwin hstore hleg
    refine ⟨hwin, hstore, ?_, fun f hf => ?_, fun l => ?_⟩
    · rw [List.map_map]
      refine List.map_congr_left fun e _ => ?_
      simp only [Function.comp_apply]
      split <;> rfl
    · obtain ⟨e, he, rfl⟩ := List.mem_map.mp hf
      exact ⟨e, he, by split <;> exact ⟨rfl, rfl, rfl, rfl⟩⟩
    · exact ⟨(congrArg LegPort.direct (hleg l)).trans rfl, (congrArg LegPort.lag (hleg l)).trans rfl⟩

theorem removeSlotJob_jobOnly (w : WinIx) (l : LegIx) (s : State) : JobOnly s (removeSlotJob w l s) := by
  unfold removeSlotJob
  split
  · split
    · obtain ⟨h1, h2, h3, h4, h5⟩ := abortJob_jobOnly s
      exact ⟨h1, h2, h3, h4, h5⟩
    · exact .of_eq rfl rfl rfl rfl
  · exact .of_eq rfl rfl rfl rfl

section
variable {s : State} {w : WinIx} {l : LegIx}

theorem memberFreed_writes {f : WriteEntry} (h : f ∈ (memberFreed w l s).writes) : ∃ e ∈ s.writes, f = e.withoutMember w l := by
  have hmem : f ∈ (decideAll (owingOnly l (owing s w l)) (dropLeg w l s)).writes := h
  have hdrop := mem_decideAll hmem
  rw [dropLeg_eq] at hdrop
  obtain ⟨e, he, rfl⟩ := List.mem_map.mp hdrop
  exact ⟨e, he, rfl⟩

theorem withoutMember_ref (e : WriteEntry) : (e.withoutMember w l).ref = e.ref := by
  unfold WriteEntry.withoutMember
  split <;> rfl

theorem withoutMember_window (e : WriteEntry) : (e.withoutMember w l).window = e.window := by
  unfold WriteEntry.withoutMember
  split <;> rfl

theorem withoutMember_clear {e : WriteEntry} (h : e.window = some w) : l ∉ (e.withoutMember w l).owed ∧
    l ∉ (e.withoutMember w l).acked ∧ addrOn (e.withoutMember w l).legAddrs l = none := by
  rw [WriteEntry.withoutMember, if_pos h]
  exact ⟨legErase_not_mem _, legErase_not_mem _, addrOn_filter _⟩
where
  /-- A list of addresses without the leg's own has none on the leg. -/
  addrOn_filter (as : List (LegIx × Nat)) : addrOn (as.filter fun a => a.1 != l) l = none := by
    simp [addrOn, List.find?_eq_none]

theorem memberFreed_refs (hn : (s.writes.map (·.ref)).Nodup) : ((memberFreed w l s).writes.map (·.ref)).Nodup := by
  have hdrop : ((dropLeg w l s).writes.map (·.ref)).Nodup := by
    rw [dropLeg_eq, List.map_map]
    have hrefs : s.writes.map ((·.ref) ∘ fun e => e.withoutMember w l) = s.writes.map (·.ref) :=
      List.map_congr_left fun e _ => withoutMember_ref e
    rw [hrefs]
    exact hn
  exact (decideAll_effects (F := AnySlot) (N := True) (dropLeg w l s) (owingOnly l (owing s w l))).nodup hdrop

theorem memberFreed_noneQueued : NoneQueued (memberFreed w l s) w l := by
  intro r hr
  have hleg : (memberFreed w l s).leg l = _ := setLeg_leg_self (clearRemoved w l s) l _
  rw [hleg, List.mem_append, List.mem_filter, List.mem_filter] at hr
  rcases hr with ⟨-, hr⟩ | ⟨-, hr⟩ <;> simpa using hr

theorem memberFreed_store : ∀ e ∈ (memberFreed w l s).store, ¬ (e.window = w ∧ e.leg = l) := by
  rintro e he ⟨hw, hl⟩
  have hout := (List.mem_filter.mp he).2
  rw [hw, hl, beq_self_eq_true, beq_self_eq_true] at hout
  exact Bool.false_ne_true hout

/-- The state when the list has closed up (R28 steps 1 to 5). -/
def memberClosed (w : WinIx) (l : LegIx) (s : State) : State := closeList w l (removeSlotJob w l (memberFreed w l s))

theorem memberClosed_win : (memberClosed w l s).win w =
    { s.win w with members := (s.win w).members.filter fun m => m.leg != l, rotate := 0 } := by
  have hwin : (removeSlotJob w l (memberFreed w l s)).win w = s.win w := by
    simp only [State.win, (removeSlotJob_jobOnly w l _).windows, memberFreed_windows]
  rw [memberClosed, closeList, modWin, setWin_win_self, hwin]

theorem memberClosed_gone (hn : (s.writes.map (·.ref)).Nodup) : Gone (memberClosed w l s) w l := by
  have hjob : JobOnly (memberFreed w l s) (removeSlotJob w l (memberFreed w l s)) := removeSlotJob_jobOnly w l _
  have hentry {f : WriteEntry} (hf : f ∈ (memberClosed w l s).writes) (hw : f.window = some w) :
      l ∉ f.owed ∧ l ∉ f.acked ∧ addrOn f.legAddrs l = none := by
    obtain ⟨g, hg, hsame⟩ := hjob.writes f hf
    obtain ⟨e, he, rfl⟩ := memberFreed_writes hg
    rw [hsame.owed, hsame.acked, hsame.legAddrs]
    exact withoutMember_clear ((withoutMember_window e).symm.trans (hsame.window.symm.trans hw))
  refine ⟨?_, ?_, fun f hf hw => (hentry hf hw).1, fun f hf hw => (hentry hf hw).2.1, fun f hf hw => (hentry hf hw).2.2, fun r hr => ?_,
    fun e he => ?_⟩
  · have hrefs := memberFreed_refs (w := w) (l := l) hn
    rwa [← hjob.refs] at hrefs
  · rw [memberOf_eq_none, memberClosed_win]
    intro m hm
    simpa using (List.mem_filter.mp hm).2
  · obtain ⟨hdirect, hlag⟩ := hjob.queues l
    have hr' : r ∈ ((removeSlotJob w l (memberFreed w l s)).leg l).direct ++ ((removeSlotJob w l (memberFreed w l s)).leg l).lag := hr
    rw [hdirect, hlag] at hr'
    exact memberFreed_noneQueued r hr'
  · have he' : e ∈ (removeSlotJob w l (memberFreed w l s)).store := he
    rw [hjob.store] at he'
    exact memberFreed_store e he'

/-! ## The slot's job -/

theorem abortJob_jobs {j : Job} {js : List Job} (h : s.jobs = j :: js) (hr : j.running = true) : (abortJob s).jobs = js := by
  rw [abortJob_eq (runningJob_of_head h hr), abandonChunks_eq h hr]
  rfl

/-- Of at most one job of the slot, running only at the head, none is left. -/
theorem removeSlotJob_noJob (h1 : (s.jobs.filter fun j => j.window == w && j.target == l).length ≤ 1)
    (ht : ∀ j ∈ s.jobs.tail, j.running = false) : NoJob (removeSlotJob w l s) w l := by
  cases hfind : s.jobs.find? fun j => j.window == w && j.target == l with
  | none =>
    have hno : NoJob s w l := by
      intro j hj
      have hnot := List.find?_eq_none.mp hfind j hj
      rwa [Bool.and_eq_true, beq_iff_eq, beq_iff_eq] at hnot
    rw [removeSlotJob_none hno]
    exact hno
  | some j =>
    by_cases hr : j.running = true
    · obtain ⟨js, hjobs⟩ : ∃ js, s.jobs = j :: js := by
        have hmem := List.mem_of_find?_eq_some hfind
        cases hs : s.jobs with
        | nil => rw [hs] at hmem; cases hmem
        | cons k ks =>
          rw [hs] at hmem ht
          rcases List.mem_cons.mp hmem with rfl | hmem
          · exact ⟨ks, rfl⟩
          · exact absurd hr (by rw [ht j hmem]; decide)
      have hhead : (j.window == w && j.target == l) = true := by simpa using List.find?_some hfind
      have hkept : (removeSlotJob w l s).jobs = js := by
        rw [removeSlotJob_running hfind hr]
        exact abortJob_jobs hjobs hr
      intro k hk hwl
      rw [hkept] at hk
      rw [hjobs, List.filter_cons, if_pos hhead, List.length_cons] at h1
      have hnil : (js.filter fun j => j.window == w && j.target == l) = [] := List.eq_nil_of_length_eq_zero (by omega)
      have hnot := List.filter_eq_nil_iff.mp hnil k hk
      rw [Bool.and_eq_true, beq_iff_eq, beq_iff_eq] at hnot
      exact hnot hwl
    · have hkept : (removeSlotJob w l s).jobs = s.jobs.filter fun k => !(k.window == w && k.target == l) := by
        rw [removeSlotJob_queued hfind (Bool.eq_false_iff.mpr hr)]
        rfl
      intro k hk hwl
      rw [hkept] at hk
      have hout := (List.mem_filter.mp hk).2
      rw [hwl.1, hwl.2, beq_self_eq_true, beq_self_eq_true] at hout
      exact Bool.false_ne_true hout

theorem memberClosed_noJob (h1 : (s.jobs.filter fun j => j.window == w && j.target == l).length ≤ 1)
    (ht : ∀ j ∈ s.jobs.tail, j.running = false) : NoJob (memberClosed w l s) w l := by
  have hjobs := memberFreed_jobs w l s
  exact removeSlotJob_noJob (s := memberFreed w l s) (by rw [hjobs]; exact h1) (by rw [hjobs]; exact ht)

end

end Sys2Proof.Machine
end

section
/-! SUPPORT. The obligation on MEMBER_REMOVE (R27 to R29). -/

namespace Sys2Proof.Machine

open Sys2Proof.Safety

section
variable {s : State} {w : WinIx} {l : LegIx}

/-- The state once the records are offered and a lost source's segment restarted (R28 steps 6 and 7, R121). -/
def memberReported (w : WinIx) (l : LegIx) (s : State) : State :=
  let v := if isTarget s w l then resumeRelease (memberClosed w l s) else memberClosed w l s
  let p := postChange w (healthOf (s.win w)) (healthOf ((memberClosed w l s).win w)) (post (.memberChange w l .removed none) v)
  if isSource s w l then restartPass p else p

theorem memberReported_effects (hn : (s.writes.map (·.ref)).Nodup) : Effects AnySlot True (memberClosed w l s) (memberReported w l s) := by
  have hrelease : Effects AnySlot True (memberClosed w l s)
      (if isTarget s w l then resumeRelease (memberClosed w l s) else memberClosed w l s) :=
    .ite (resumeRelease_effects fun _ => (memberClosed_gone hn).refs) (.refl _)
  have hpost := hrelease.trans ((post_effects _ (.memberChange w l .removed none)).trans
    (postChange_effects _ w (healthOf (s.win w)) (healthOf ((memberClosed w l s).win w))))
  exact .ite (hpost.trans (restartPass_effects _)) hpost

theorem Gone.dropReadAddr (h : Gone s w l) : Gone (Machine.dropReadAddr w l s) w l :=
  ⟨h.refs, h.member, h.owed, h.acked, h.addr, h.queued, h.store⟩

theorem dropReadAddr_none : NoReadAddr (dropReadAddr w l s) w l := by
  intro f hf hw
  rw [dropReadAddr_eq] at hf
  obtain ⟨e, -, rfl⟩ := List.mem_map.mp hf
  split at hw
  next he =>
    rw [if_pos he]
    exact withoutMember_clear.addrOn_filter _
  next he => exact absurd hw he

/-- The effects of the last part, the reads taken back and resumed. -/
theorem removeMember_effects : Effects AnySlot True (dropReadAddr w l (memberReported w l s)) (removeMember w l s) :=
  (takeBackReads_effects _ w l).trans (raise_effects _)

theorem removeMember_leaves (hn : (s.writes.map (·.ref)).Nodup) :
    let t := removeMember w l s
    ((t.win w).members.map fun m => (m.leg, m.base)) =
      ((s.win w).members.filter fun m => m.leg != l).map (fun m => (m.leg, m.base)) ∧
    (∀ e ∈ t.writes, e.window = some w → l ∉ e.owed ∧ l ∉ e.acked ∧ addrOn e.legAddrs l = none) ∧
    (∀ e ∈ t.reads, e.window = some w → addrOn e.legAddrs l = none) ∧
    (∀ r ∈ (t.leg l).direct ++ (t.leg l).lag, r.isWriteOf w = false) ∧
    (∀ e ∈ t.store, ¬ (e.window = w ∧ e.leg = l)) ∧
    ((s.jobs.filter fun j => j.window == w && j.target == l).length ≤ 1 → (∀ j ∈ s.jobs.tail, j.running = false) →
      ∀ j ∈ t.jobs, ¬ (j.window = w ∧ j.target = l)) := by
  intro t
  have hreport : Effects AnySlot True (memberClosed w l s) (memberReported w l s) := memberReported_effects hn
  have hlast : Effects AnySlot True (dropReadAddr w l (memberReported w l s)) t := removeMember_effects
  have hgone : Gone t w l := hlast.gone (hreport.gone (memberClosed_gone hn)).dropReadAddr
  have hdrop : ((dropReadAddr w l (memberReported w l s)).win w).keys = ((memberReported w l s).win w).keys := rfl
  have hkeys : (t.win w).keys = ((memberClosed w l s).win w).keys := (hlast.keys w).trans (hdrop.trans (hreport.keys w))
  refine ⟨?_, fun e he hw => ⟨hgone.owed e he hw, hgone.acked e he hw, hgone.addr e he hw⟩, hlast.noReadAddr dropReadAddr_none,
    hgone.queued, hgone.store, fun h1 ht => ?_⟩
  · rw [memberClosed_win] at hkeys
    exact hkeys
  · have hjob : NoJob (dropReadAddr w l (memberReported w l s)) w l := hreport.noJob (memberClosed_noJob h1 ht)
    exact hlast.noJob hjob

end

/-- Settles O27: the member is gone when its list has closed up, and the effects that follow bring nothing back; the steps are those of the
model, taken by the slot's job. -/
theorem memberRemoveClearsTheMember : Obligations.MemberRemoveClearsTheMember := by
  unfold Obligations.MemberRemoveClearsTheMember
  refine ⟨?table, fun s w l hn => removeMember_leaves hn, ?cleared, ?steps, fun s w l => ⟨dropReadAddr_eq, takeBackReads_eq, dropRead_eq⟩⟩
  case table =>
    intro s q w l hl hp H answer
    obtain ⟨hstate, harg, hmember⟩ := memberRemove_answers (q := q) (w := w) (l := l) hl hp
    refine ⟨hstate, harg, fun m he hm => ?_⟩
    intro last
    refine ⟨fun h => (hmember m he hm).1 (removeRefused_iff.mpr h), fun h => ?_⟩
    exact (hmember m he hm).2 (Bool.eq_false_iff.mpr (mt removeRefused_iff.mp h))
  case cleared =>
    intro s w l dropped
    have hdropped : dropLeg w l s = dropped := dropLeg_eq w l s
    rw [← hdropped]
    rfl
  case steps =>
    intro s w l C freed closed changed finished
    refine ⟨fun h => removeMember_noJob h, fun j h => ⟨fun hr hno => ?_, fun hj => removeMember_running h hj⟩⟩
    intro u
    have hjobs := memberFreed_jobs w l s
    have hu : u = post (.jobEnded w l .removed j.number) (dropSlotJob w l (memberFreed w l s)) := by
      rw [dropSlotJob, hjobs]
      rfl
    rw [hu]
    exact removeMember_queued h hr hno

end Sys2Proof.Machine
end

section
/-! SUPPORT. The slot decisions of a datapath reset (R41, R42, R91). -/

namespace Sys2Proof.Machine

open Sys2Proof.Safety

/-! ## A demotion in a window with another CURRENT member -/

/-- The slots of one window on one leg. -/
def OneSlot (w : WinIx) (l : LegIx) : WinIx → LegIx → Prop := fun v k => v = w ∧ k = l

/-- Some slot of the window on the leg is CURRENT. -/
def HasCurrent (s : State) (w : WinIx) (k : LegIx) : Prop := ∃ m ∈ (s.win w).members, m.leg = k ∧ m.state = some .current

section
variable {F : WinIx → LegIx → Prop} {N : Prop} {s t : State} {w : WinIx} {l k : LegIx}

theorem Effect.hasCurrent (h : Effect F N s t) (hF : ¬ F w k) (hs : HasCurrent s w k) : HasCurrent t w k := by
  obtain ⟨m, hm, hk, hst⟩ := hs
  unfold HasCurrent
  rcases h.win_cases w with hx | ⟨j, ⟨b, hj, -, hx⟩ | hx⟩
  · rw [hx]
    exact ⟨m, hm, hk, hst⟩
  · have hne : ¬ m.leg = j := fun he => hF ((he.symm.trans hk) ▸ hj)
    rw [hx]
    exact ⟨m, List.mem_map.mpr ⟨m, hm, if_neg hne⟩, hk, hst⟩
  · rw [hx]
    refine ⟨_, List.mem_map.mpr ⟨m, hm, rfl⟩, ?_⟩
    split
    · exact ⟨hk, hst⟩
    · exact ⟨hk, hst⟩

theorem Effects.hasCurrent (h : Effects F N s t) (hF : ¬ F w k) (hs : HasCurrent s w k) : HasCurrent t w k :=
  h.keep (P := fun u => HasCurrent u w k) (fun _ _ hab ha => hab.hasCurrent hF ha) hs

theorem not_isLost_of_hasCurrent (h : HasCurrent s w k) : isLost (s.win w) = false := by
  obtain ⟨m, hm, -, hst⟩ := h
  rw [← Bool.not_eq_true, isLost_iff]
  exact fun hlost => hlost.2 m hm hst

theorem hasCurrent_of_lead {m : Member} (h : leadOf (s.win w) = some m) : HasCurrent s w m.leg := by
  obtain ⟨hm, hst, -⟩ := leadOf_current h
  exact ⟨m, hm, rfl, hst⟩

variable {c : MemberCause} {jc : JobCause}

theorem demoteOne_oneSlot : Effects (OneSlot w l) False s (demoteOne id w l c jc false s) :=
  demoteOne_effects (fun u _ => .refl u) (fun hN => hN.elim) ⟨rfl, rfl⟩ c jc false

/-- The window stays led, so its REBUILDING slot is left alone. -/
theorem demoteHolding_led (h : HasCurrent s w k) (hk : k ≠ l) : demoteHolding w l c jc s = demoteOne id w l c jc false s := by
  have hkeep : HasCurrent (demoteOne id w l c jc false s) w k := demoteOne_oneSlot.hasCurrent (fun hF => hk hF.2) h
  exact lostTarget_rests fun j _ _ => not_isLost_of_hasCurrent hkeep

theorem demoteHolding_stale (h : slotState s w l = some .current ∨ slotState s w l = some .rebuilding) :
    slotState (demoteHolding w l c jc s) w l = some .stale := by
  have hi (u : State) (_ : RefsApart False u) : Effects AnySlot False u (id u) := .refl u
  have hone : Effects AnySlot False (cleared s w l false) (demoteOne id w l c jc false s) :=
    demoteOne_of_cleared hi (fun hN => hN.elim) h c jc
  exact (hone.trans (lostTarget_effects hi (fun hN => hN.elim) w)).stale (cleared_stale h)

theorem isCurrent_iff : isCurrent s w l = true ↔ slotState s w l = some .current := by rw [isCurrent, beq_iff_eq]

/-! ## The demotions of one visit (R41) -/

/-- The demotion of R41 of one member: the lead stays, another CURRENT slot goes if its leg or the lead's is owed. -/
def demotionStep (w : WinIx) (k : LegIx) (owed : List LegIx) (s : State) (m : Member) : State :=
  if m.leg ≠ k ∧ isCurrent s w m.leg = true ∧ (m.leg ∈ owed ∨ k ∈ owed)
  then demoteHolding w m.leg .datapathReset .datapathReset s else s

/-- The demotions of R41 over some members. -/
def demotions (w : WinIx) (k : LegIx) (owed : List LegIx) (ms : List Member) (s : State) : State := ms.foldl (demotionStep w k owed) s

theorem demoteForReset_eq (w : WinIx) (k : LegIx) (e : WriteEntry) (s : State) :
    demoteForReset w k e s = demotions w k e.owed (s.win w).members s := by
  unfold demoteForReset demotions
  congr 1
  funext u m
  simp only [demotionStep, Bool.and_eq_true, Bool.or_eq_true, bne_iff_ne, List.contains_iff_mem, and_assoc]

variable {owed : List LegIx}

/-- One step lets at most its own slot fall, which is not the lead's. -/
theorem demotionStep_oneSlot (h : HasCurrent s w k) (m : Member) :
    Effects (fun v j => v = w ∧ j = m.leg ∧ j ≠ k) False s (demotionStep w k owed s m) := by
  unfold demotionStep
  split
  next hc =>
    rw [demoteHolding_led h (Ne.symm hc.1)]
    exact demoteOne_effects (fun u _ => .refl u) (fun hN => hN.elim) ⟨rfl, rfl, hc.1⟩ _ _ false
  · exact .refl s

theorem demotionStep_lead (h : HasCurrent s w k) (m : Member) : HasCurrent (demotionStep w k owed s m) w k :=
  (demotionStep_oneSlot h m).hasCurrent (fun hF => hF.2.2 rfl) h

/-- The slots on other legs are as they were. -/
theorem demotionStep_other (h : HasCurrent s w k) {m : Member} (hl : m.leg ≠ l) :
    slotState (demotionStep w k owed s m) w l = slotState s w l := by
  rcases (demotionStep_oneSlot (owed := owed) h m).slotState w l with hsame | ⟨hF, -, -⟩
  · exact hsame
  · exact absurd hF.2.1.symm hl

theorem demotionStep_falls {m : Member} (hk : m.leg ≠ k) (hc : isCurrent s w m.leg = true ∧ (m.leg ∈ owed ∨ k ∈ owed)) :
    slotState (demotionStep w k owed s m) w m.leg = some .stale := by
  rw [demotionStep, if_pos ⟨hk, hc⟩]
  exact demoteHolding_stale (.inl (isCurrent_iff.mp hc.1))

theorem demotionStep_effects (s : State) (m : Member) : Effects AnySlot False s (demotionStep w k owed s m) :=
  .ite (demoteHolding_effects (fun hN => hN.elim) w m.leg .datapathReset .datapathReset) (.refl s)

theorem demotions_effects (ms : List Member) (s : State) : Effects AnySlot False s (demotions w k owed ms s) :=
  .foldl demotionStep_effects ms s

/-- The lead's slot is as it was. -/
theorem demotions_lead (ms : List Member) (h : HasCurrent s w k) : slotState (demotions w k owed ms s) w k = slotState s w k := by
  induction ms generalizing s with
  | nil => rfl
  | cons m ms ih =>
    refine (ih (demotionStep_lead h m)).trans ?_
    rcases (demotionStep_oneSlot (owed := owed) h m).slotState w k with hsame | ⟨hF, -, -⟩
    · exact hsame
    · exact absurd rfl hF.2.2

/-- A slot that the demotions do not visit is as it was. -/
theorem demotions_unvisited {ms : List Member} (h : HasCurrent s w k) (hm : ∀ m ∈ ms, m.leg ≠ l) :
    slotState (demotions w k owed ms s) w l = slotState s w l := by
  induction ms generalizing s with
  | nil => rfl
  | cons m ms ih =>
    obtain ⟨hhead, hrest⟩ := List.forall_mem_cons.mp hm
    exact (ih (demotionStep_lead h m) hrest).trans (demotionStep_other h hhead)

/-- A slot that the demotions visit goes if it is CURRENT and R41 names it. -/
theorem demotions_visited {ms : List Member} (h : HasCurrent s w k) (hl : l ≠ k) (hm : ∃ m ∈ ms, m.leg = l) :
    slotState (demotions w k owed ms s) w l =
      if isCurrent s w l = true ∧ (l ∈ owed ∨ k ∈ owed) then some .stale else slotState s w l := by
  induction ms generalizing s with
  | nil =>
    obtain ⟨m, hm, -⟩ := hm
    cases hm
  | cons m ms ih =>
    have hlead : HasCurrent (demotionStep w k owed s m) w k := demotionStep_lead h m
    have hfold : demotions w k owed (m :: ms) s = demotions w k owed ms (demotionStep w k owed s m) := rfl
    by_cases hleg : m.leg = l
    · subst hleg
      by_cases hc : isCurrent s w m.leg = true ∧ (m.leg ∈ owed ∨ k ∈ owed)
      · rw [if_pos hc, hfold]
        exact (demotions_effects ms _).stale (demotionStep_falls hl hc)
      · have hstep : demotionStep w k owed s m = s := if_neg fun hx => hc hx.2
        rw [hfold, hstep]
        by_cases hrest : ∃ m' ∈ ms, m'.leg = m.leg
        · exact ih h hrest
        · rw [if_neg hc]
          exact demotions_unvisited h fun m' hm' hl' => hrest ⟨m', hm', hl'⟩
    · have hrest : ∃ m' ∈ ms, m'.leg = l := by
        obtain ⟨m', hm', hl'⟩ := hm
        rcases List.mem_cons.mp hm' with rfl | hm'
        · exact absurd hl' hleg
        · exact ⟨m', hm', hl'⟩
      have hsame := demotionStep_other (owed := owed) h hleg
      have hcur : isCurrent (demotionStep w k owed s m) w l = isCurrent s w l := by
        rw [isCurrent, hsame, ← isCurrent]
      rw [hfold, ih hlead hrest, hcur, hsame]

/-! ## The recordings of one visit (R41, R91) -/

theorem holdsOther_iff {before : State} {e : WriteEntry} : holdsOther before w e l = true ↔
    l ∈ e.acked ∨ (isCurrent before w l = true ∧ l ∉ e.owed) := by
  simp [holdsOther]

/-- The recording for one member. -/
def recordStep (before : State) (w : WinIx) (g : Nat) (e : WriteEntry) (s : State) (m : Member) : State :=
  if slotState s w m.leg == some .stale && holdsOther before w e m.leg then addStale w m.leg g s else s

theorem recordStep_effects (before : State) (w : WinIx) (g : Nat) (e : WriteEntry) (s : State) (m : Member) :
    Effects (fun _ _ => False) False s (recordStep before w g e s m) := .ite (addStale_effects _ _ _ _) (.refl s)

/-- A visited slot that is STALE and may hold another version is marked. -/
theorem foldl_recordStep_marks {before : State} {g : Nat} {e : WriteEntry} {ms : List Member} (hm : ∃ m ∈ ms, m.leg = l)
    (hs : slotState s w l = some .stale) (hh : holdsOther before w e l = true) :
    Marked (ms.foldl (recordStep before w g e) s) w l g := by
  induction ms generalizing s with
  | nil =>
    obtain ⟨m, hm, -⟩ := hm
    cases hm
  | cons m ms ih =>
    have hrest (u : State) : Effects (fun _ _ => False) False u (ms.foldl (recordStep before w g e) u) :=
      .foldl (recordStep_effects before w g e) ms u
    by_cases hleg : m.leg = l
    · subst hleg
      obtain ⟨k, hk, hst⟩ := member_of_slotState hs
      have hstep : recordStep before w g e s m = addStale w m.leg g s := by
        refine if_pos ?_
        rw [hs, hh]
        rfl
      rw [List.foldl_cons, hstep]
      exact (hrest _).marked (addStale_marks hk hst g)
    · obtain ⟨m', hm', hl'⟩ := hm
      rcases List.mem_cons.mp hm' with rfl | hm'
      · exact absurd hl' hleg
      · exact ih ⟨m', hm', hl'⟩ ((recordStep_effects before w g e s m).stale hs)

theorem recordForReset_marks {before : State} {g : Nat} {e : WriteEntry} (hs : slotState s w l = some .stale)
    (hh : holdsOther before w e l = true) : Marked (recordForReset before w g e s) w l g := by
  obtain ⟨m, hm, -⟩ := member_of_slotState hs
  exact foldl_recordStep_marks ⟨m, memberOf_mem hm, memberOf_leg hm⟩ hs hh

theorem isWhole_of_wholeSlot (h : WholeSlot s w l) : isWhole s w l = true := by
  obtain ⟨m, hm, hw⟩ := h
  rw [isWhole, hm]
  exact hw

/-! ## One visit -/

variable {v : Visits} {n : Nat} {e : WriteEntry}

theorem visitEntry_gone (h : findWrite v.state n = none) : visitEntry v n = v := by
  simp only [visitEntry, h]

theorem visitEntry_pass (h : findWrite v.state n = some e) (hw : e.window = none) : visitEntry v n = v := by
  simp only [visitEntry, h, hw]

theorem visitEntry_unled {g : Nat} (h : findWrite v.state n = some e) (hw : e.window = some w) (hg : e.segment = some g)
    (hl : leadOf (v.state.win w) = none) : visitEntry v n = v := by
  simp only [visitEntry, h, hw, hg, hl]

theorem visitEntry_led {g : Nat} {m : Member} (h : findWrite v.state n = some e) (hw : e.window = some w) (hg : e.segment = some g)
    (hl : leadOf (v.state.win w) = some m) : visitEntry v n =
      if m.leg ∈ e.owed then
        { state := decideEmptied n (clearOwed n m.leg (recordForReset v.state w g e (demoteForReset w m.leg e v.state)))
          owedToLead := if targetAcked v.state w e then v.owedToLead ++ [g] else v.owedToLead }
      else { v with state := demoteForReset w m.leg e v.state } := by
  simp only [visitEntry, h, hw, hg, hl, List.contains_iff_mem]

end

end Sys2Proof.Machine
end

section
/-! SUPPORT. The datapath reset (R65, R86, R125, R148, R161, R186), and its obligation. -/

namespace Sys2Proof.Machine

open Sys2Proof.Safety

/-! ## What the slot decisions leave alone -/

/-- The frame and the parts that every unit keeps. -/
structure Stays (s t : State) : Prop where
  framed : Framed s t
  kept : Kept s t

theorem Stays.refl (s : State) : Stays s s := ⟨.refl s, .refl s⟩

theorem Stays.trans {s t u : State} (h : Stays s t) (k : Stays t u) : Stays s u := ⟨h.framed.trans k.framed, h.kept.trans k.kept⟩

theorem Stays.ite {s t u : State} {c : Prop} [Decidable c] (h : Stays s t) (k : Stays s u) : Stays s (if c then t else u) := by
  split
  · exact h
  · exact k

theorem Stays.foldl {α : Type} {f : State → α → State} (h : ∀ u a, Stays u (f u a)) (as : List α) (s : State) :
    Stays s (as.foldl f s) := by
  induction as generalizing s with
  | nil => exact .refl s
  | cons a as ih => exact (h s a).trans (ih _)

theorem demoteHolding_stays (s : State) (w : WinIx) (l : LegIx) (c : MemberCause) (jc : JobCause) :
    Stays s (demoteHolding w l c jc s) := ⟨demoteHolding_framed _ _ _ _ _, demoteHolding_kept _ _ _ _ _⟩

theorem addStale_stays (s : State) (w : WinIx) (l : LegIx) (g : Nat) : Stays s (addStale w l g s) :=
  ⟨addStale_framed _ _ _ _, addStale_kept _ _ _ _⟩

theorem demotionStep_stays (w : WinIx) (k : LegIx) (owed : List LegIx) (s : State) (m : Member) : Stays s (demotionStep w k owed s m) :=
  .ite (demoteHolding_stays s w m.leg .datapathReset .datapathReset) (.refl s)

theorem demoteForReset_stays (w : WinIx) (l : LegIx) (e : WriteEntry) (s : State) : Stays s (demoteForReset w l e s) := by
  rw [demoteForReset_eq]
  exact .foldl (demotionStep_stays w l e.owed) _ s

theorem recordStep_stays (b : State) (w : WinIx) (g : Nat) (e : WriteEntry) (s : State) (m : Member) : Stays s (recordStep b w g e s m) :=
  .ite (addStale_stays s w m.leg g) (.refl s)

theorem recordForReset_stays (b : State) (w : WinIx) (g : Nat) (e : WriteEntry) (s : State) : Stays s (recordForReset b w g e s) :=
  .foldl (recordStep_stays b w g e) (s.win w).members s

theorem visitEntry_stays (v : Visits) (n : Nat) : Stays v.state (visitEntry v n).state := by
  cases h : findWrite v.state n with
  | none =>
    rw [visitEntry_gone h]
    exact .refl _
  | some e =>
    unfold visitEntry
    rw [h]
    dsimp only
    split
    next w g hw hg =>
      split
      next m hm =>
        split
        · exact ((demoteForReset_stays _ _ _ _).trans (recordForReset_stays _ _ _ _ _)).trans
            (⟨(clearOwed_framed _ _ _).trans (decideEmptied_framed _ _), (clearOwed_kept _ _ _).trans (decideEmptied_kept _ _)⟩)
        · exact demoteForReset_stays _ _ _ _
      · exact .refl _
    · exact .refl _

theorem foldl_visitEntry_stays (ns : List Nat) (v : Visits) : Stays v.state (ns.foldl visitEntry v).state := by
  induction ns generalizing v with
  | nil => exact .refl _
  | cons n ns ih => exact (visitEntry_stays v n).trans (ih _)

theorem demoteTarget_none {v : Visits} (h : runningJob v.state = none) : demoteTarget v = v.state := by
  simp only [demoteTarget, h]

theorem demoteTarget_some {v : Visits} {j : Job} (h : runningJob v.state = some j) :
    demoteTarget v = v.owedToLead.foldl (fun u g => addStale j.window j.target g u)
      (demoteHolding j.window j.target .datapathReset .datapathReset v.state) := by
  simp only [demoteTarget, h]

theorem demoteTarget_stays (v : Visits) : Stays v.state (demoteTarget v) := by
  cases h : runningJob v.state with
  | none =>
    rw [demoteTarget_none h]
    exact .refl _
  | some j =>
    rw [demoteTarget_some h]
    exact (demoteHolding_stays _ _ _ _ _).trans (.foldl (fun u g => addStale_stays u j.window j.target g) _ _)

theorem resetSlots_stays (s : State) : Stays s (resetSlots s) :=
  (foldl_visitEntry_stays (s.writes.map (·.ref)) { state := s, owedToLead := [] }).trans (demoteTarget_stays _)

/-! ## The five parts -/

theorem resetJobs_eq (s : State) : resetJobs s = { s with
    jobs := []
    events := (s.jobs.map fun j => EventRec.jobEnded j.window j.target .datapathReset j.number).foldl EventUnit.offer s.events } :=
  postEnded_eq .datapathReset s.jobs { s with jobs := [] }

/-- The state of a reset before its slot decisions. -/
def resetBegun (s : State) : State :=
  { s with
    port := { s.port with progress := .answering }
    link := { s.link with accept := .resetting, cause := .resetting } }

theorem datapathReset_eq (s : State) : datapathReset s = resetEmpty (resetAnswers (resetJobs (resetSlots (resetBegun s)))) := rfl

theorem resetEmpty_leg (s : State) (l : LegIx) : (resetEmpty s).leg l = (s.leg l).abandonAll := by
  simp only [resetEmpty, State.raiseWork, State.leg]
  exact Vector.getElem_map ..

theorem abandonAll_notLive {p : LegPort} {f : Flight} (h : f ∈ p.abandonAll.inflight) : f.condition ≠ .live := by
  obtain ⟨g, -, rfl⟩ := List.mem_map.mp h
  unfold Flight.orphan
  split
  · exact nofun
  next hg => exact mt beq_iff_eq.mpr hg

theorem abandonAll_numbers (p : LegPort) : p.abandonAll.inflight.map (·.number) = p.inflight.map (·.number) := by
  simp only [LegPort.abandonAll, List.map_map]
  exact List.map_congr_left fun f _ => orphan_number f

theorem conf_fields {p q : LegPort} (h : q.conf = p.conf) : q.state = p.state ∧ q.identity = p.identity ∧ q.timeout = p.timeout ∧
    q.nextNumber = p.nextNumber ∧ q.arbiter = p.arbiter ∧ q.failures = p.failures := by
  refine ⟨?_, ?_, ?_, ?_, ?_, ?_⟩
  · exact (congrArg LegPort.state h).trans rfl
  · exact (congrArg LegPort.identity h).trans rfl
  · exact (congrArg LegPort.timeout h).trans rfl
  · exact (congrArg LegPort.nextNumber h).trans rfl
  · exact (congrArg LegPort.arbiter h).trans rfl
  · exact (congrArg LegPort.failures h).trans rfl

theorem own_fields {x y : Window} (h : y.own = x.own) : y.state = x.state ∧ y.base = x.base ∧ y.size = x.size ∧ y.rotate = x.rotate ∧
    y.writePolicy = x.writePolicy ∧ y.readPolicy = x.readPolicy ∧ y.lagPolicy = x.lagPolicy ∧ y.autoRebuild = x.autoRebuild ∧
    y.members.map (fun m => (m.leg, m.base)) = x.members.map fun m => (m.leg, m.base) := by
  refine ⟨(congrArg Window.state h).trans rfl, (congrArg Window.base h).trans rfl, (congrArg Window.size h).trans rfl, (congrArg Window.rotate h).trans rfl,
    (congrArg Window.writePolicy h).trans rfl, (congrArg Window.readPolicy h).trans rfl, (congrArg Window.lagPolicy h).trans rfl, (congrArg Window.autoRebuild h).trans rfl, ?_⟩
  have hmembers : y.members.map Member.unbound = x.members.map Member.unbound := (congrArg Window.members h).trans rfl
  have hkeys := congrArg (List.map fun m : Member => (m.leg, m.base)) hmembers
  rwa [List.map_map, List.map_map] at hkeys

end Sys2Proof.Machine
end

section
/-! SUPPORT. The obligation on the datapath reset (R186). -/

namespace Sys2Proof.Machine

open Sys2Proof.Safety

/-! ## The parts after the slot decisions -/

/-- The last three parts of a reset. -/
def resetEnded (s : State) : State := resetEmpty (resetAnswers (resetJobs s))

section
variable {s : State}

theorem resetEnded_port : (resetEnded s).port = { s.port with progress := .clearing } := by
  rw [resetEnded, resetJobs_eq]
  rfl

theorem resetEnded_jobs : (resetEnded s).jobs = [] := by
  rw [resetEnded, resetJobs_eq]
  rfl

theorem resetEnded_link : ∃ items, (resetEnded s).link = { s.link with answers := s.link.answers ++ items } := by
  rw [resetEnded, resetJobs_eq]
  exact ⟨_, rfl⟩

theorem resetEnded_kept : (resetEnded s).health = s.health ∧ (resetEnded s).passLeg = s.passLeg ∧ (resetEnded s).nextJob = s.nextJob := by
  rw [resetEnded, resetJobs_eq]
  exact ⟨rfl, rfl, rfl⟩

theorem resetEnded_win (w : WinIx) : (resetEnded s).win w = s.win w := by
  rw [resetEnded, resetJobs_eq]
  rfl

theorem resetEnded_leg (l : LegIx) : (resetEnded s).leg l = (s.leg l).abandonAll := by
  rw [resetEnded, resetEmpty_leg, resetJobs_eq]
  rfl

end

/-! ## The reset -/

theorem reset_link {s t : State} (h : Framed (resetBegun s) t) : ∃ items, (resetEnded t).link =
    { s.link with accept := .resetting, cause := .resetting, answers := s.link.answers ++ items } := by
  obtain ⟨as, ha⟩ := h.link
  obtain ⟨bs, hb⟩ := resetEnded_link (s := t)
  refine ⟨as ++ bs, ?_⟩
  rw [hb, ha, ← List.append_assoc]
  rfl

/-- What the parts leave, for any slot decisions that stay in the frame. -/
theorem reset_leaves {s t : State} (h : Stays (resetBegun s) t) :
    let u := resetEnded t
    u.writes = [] ∧ u.hold = [] ∧ u.reads = [] ∧ u.jobs = [] ∧ u.port = { s.port with progress := .clearing } ∧
    u.link.accept = .resetting ∧ u.link.cause = .resetting ∧ u.link.head = s.link.head ∧ u.link.tags = s.link.tags ∧
    u.link.waiting = s.link.waiting ∧ (∃ items, u.link.answers = s.link.answers ++ items) ∧
    u.health = s.health ∧ u.passLeg = s.passLeg ∧ u.nextJob = s.nextJob ∧
    (∀ w : WinIx, (u.win w).state = (s.win w).state ∧ (u.win w).base = (s.win w).base ∧
      (u.win w).size = (s.win w).size ∧ (u.win w).rotate = (s.win w).rotate ∧
      (u.win w).writePolicy = (s.win w).writePolicy ∧
      (u.win w).readPolicy = (s.win w).readPolicy ∧ (u.win w).lagPolicy = (s.win w).lagPolicy ∧
      (u.win w).autoRebuild = (s.win w).autoRebuild ∧
      (u.win w).members.map (fun m => (m.leg, m.base)) = (s.win w).members.map fun m => (m.leg, m.base)) ∧
    ∀ l : LegIx, (u.leg l).direct = [] ∧ (u.leg l).lag = [] ∧
      (u.leg l).copy = [] ∧ (∀ f ∈ (u.leg l).inflight, f.condition ≠ .live) ∧
      (u.leg l).inflight.map (·.number) = (s.leg l).inflight.map (·.number) ∧
      (u.leg l).state = (s.leg l).state ∧ (u.leg l).identity = (s.leg l).identity ∧
      (u.leg l).timeout = (s.leg l).timeout ∧ (u.leg l).nextNumber = (s.leg l).nextNumber ∧
      (u.leg l).arbiter = (s.leg l).arbiter ∧ (u.leg l).failures = (s.leg l).failures := by
  intro u
  obtain ⟨items, hlink⟩ := reset_link h.framed
  obtain ⟨hhealth, hpass, hnext⟩ := resetEnded_kept (s := t)
  have hport : u.port = { s.port with progress := .clearing } := by
    rw [resetEnded_port, h.kept.port]
    rfl
  have hwin (w : WinIx) : (u.win w).own = (s.win w).own := by
    rw [resetEnded_win]
    exact h.framed.own w
  refine ⟨rfl, rfl, rfl, resetEnded_jobs, hport, ?_, ?_, ?_, ?_, ?_, ⟨items, ?_⟩, hhealth.trans h.kept.health, hpass.trans h.kept.passLeg,
    hnext.trans h.kept.nextJob, fun w => own_fields (hwin w), fun l => ?_⟩
  iterate 6 rw [hlink]
  have hconf : (t.leg l).conf = (s.leg l).conf := h.framed.conf l
  obtain ⟨hstate, hidentity, htimeout, hnumber, harbiter, hfailures⟩ := conf_fields hconf
  rw [resetEnded_leg]
  exact ⟨rfl, rfl, rfl, fun f hf => abandonAll_notLive hf, (abandonAll_numbers _).trans (h.framed.numbers l), hstate, hidentity, htimeout,
    hnumber, harbiter, hfailures⟩

theorem datapathReset_ended (s : State) : datapathReset s = resetEnded (resetSlots (resetBegun s)) := rfl

theorem cmdDatapathReset_eq {s : State} (hr : inReset s = false) : cmdDatapathReset [] s = finish .accepted (datapathReset s) := by
  simp only [cmdDatapathReset, hr, Bool.false_eq_true, if_false]

/-- Settles O16: the frame of the slot decisions for what the reset leaves, and the demotions and recordings of a visit by R41 and R91. -/
theorem datapathResetEmptiesTheDatapath : Obligations.DatapathResetEmptiesTheDatapath := by
  unfold Obligations.DatapathResetEmptiesTheDatapath
  refine ⟨?answer, fun s _ => ?leaves, datapathReset_eq, fun s => rfl, fun v n h => visitEntry_gone h, fun v n e h => ?visit,
    fun v => ⟨demoteTarget_none, fun j hj => demoteTarget_some hj⟩, resetJobs_eq⟩
  case answer =>
    intro s q hl hp
    have hrun : exec (.datapathReset q []) s = .next (respond q (cmdDatapathReset [] (heard 0x03 q [] s))) :=
      exec_heard (c := .datapathReset q []) rfl (by simp) hl
    rw [hrun, cmdDatapathReset_eq (s := heard 0x03 q [] s) (inReset_eq_false.mpr hp), respond_finish]
  case leaves =>
    rw [datapathReset_ended]
    exact reset_leaves (resetSlots_stays (resetBegun s))
  case visit =>
    refine ⟨visitEntry_pass h, fun w g hw hg => ⟨visitEntry_unled h hw hg, fun k hk => ?_⟩⟩
    intro D R holds
    have hD : D = demotions w k.leg e.owed (v.state.win w).members v.state := demoteForReset_eq w k.leg e v.state
    have hlead : HasCurrent v.state w k.leg := hasCurrent_of_lead hk
    have hvisit := visitEntry_led h hw hg hk
    refine ⟨hD, ?_, ?_, fun m hm hne => ?_, fun ho => hvisit.trans (if_neg ho), fun ho => ?_⟩
    · refine congrArg (fun f => (D.win w).members.foldl f D) ?_
      funext u m
      refine if_congr ?_ rfl rfl
      rw [Bool.and_eq_true, beq_iff_eq, holdsOther_iff]
    · rw [hD, isCurrent, isCurrent, demotions_lead _ hlead]
    · rw [hD]
      exact demotions_visited hlead hne ⟨m, hm, rfl⟩
    · rw [if_pos ho] at hvisit
      refine ⟨fun m _ hs hh => ?_, congrArg Visits.state hvisit, congrArg Visits.owedToLead hvisit⟩
      exact (recordForReset_marks hs (holdsOther_iff.mpr hh)).imp_right isWhole_of_wholeSlot

end Sys2Proof.Machine
end
